-- ==== Sys2Proof/Word.lean ====
section
/-! DEFINITION. The word and byte types of CRCF. -/

namespace Sys2Proof

/-- A register, a command word, a checksum (00_scope.md R8). -/
abbrev Word := BitVec 32

/-- A buffer byte (00_scope.md R8). -/
abbrev Byte := BitVec 8

end Sys2Proof
end

