-- ==== Sys2Proof/Config.lean ====
section
/-! DEFINITION. What an instance of CRCF fixes (the parameters of 00_scope.md R6), and the free values the spec leaves open. -/

namespace Sys2Proof

/-- The parameters of one instance (00_scope.md R6; 60_exceptions.md R157 for `irqLine`). A state
carries them, no step changes them, and every statement quantifies over them. -/
structure Config where
  /-- `IBUF_LOG2`. -/
  ibufLog2 : Nat
  /-- `OBUF_LOG2`. -/
  obufLog2 : Nat
  /-- `CRCF_BASE`, the address of the window's first byte. -/
  base : Nat
  /-- `CRCF_IRQ_LINE`, the platform's number for the IRQ line. -/
  irqLine : Nat
deriving DecidableEq, Repr

/-- The reference values of 00_scope.md R6.
DESIGN CHOICE (log 1): `State.reset` uses them; unsafe for a claim about `State.reset` alone. -/
def Config.reference : Config := { ibufLog2 := 12, obufLog2 := 12, base := 0, irqLine := 0 }

/-- A host read of engine-written state while BUSY = 1 returns a draw (20_memory.md R61).
Free value (log 5): no body, fresh at each index. -/
opaque Config.draw : Nat → Word

/-- The unspecified content of an IBUF byte after a reset (70_reset_and_hazards.md R170).
Free value (log 6): the arguments are which reset and which byte. -/
opaque Config.ibufResetByte : Nat → Nat → Byte

/-- The unspecified content of an OBUF byte after a reset (70_reset_and_hazards.md R170).
Free value (log 6): the arguments are which reset and which byte. -/
opaque Config.obufResetByte : Nat → Nat → Byte

end Sys2Proof
end

