-- ==== Sys2Proof/Machine/State.lean ====
section
/-! DEFINITION. The state of CRCF as plain data, its inputs and responses, the reasons a step can
stop, and the state after reset. -/

namespace Sys2Proof.Machine

/-- The bytes of a buffer written since the last reset, addresses strictly rising (20_memory.md
R52, R53). A byte that is not listed holds its unspecified reset value (log 6). -/
abbrev Memory := List Host.Cell

/-- The width of a host access (20_memory.md R55). -/
inductive Width where
  /-- An 8-bit access. -/
  | w8
  /-- A 32-bit access. -/
  | w32
  /-- Any other width: 16-bit, 64-bit, a burst. -/
  | unsupported
deriving DecidableEq, Repr

/-- One host access at an address of the host's address space (20_memory.md R51). An 8-bit write
stores bits 7:0 of its data. -/
inductive Access where
  | read (width : Width) (addr : Nat)
  | write (width : Width) (addr : Nat) (data : Word)
deriving DecidableEq, Repr

/-- Whose turn it is: the host's, with one access, or the engine's (00_scope.md R7). -/
inductive Turn where
  | host (access : Access)
  | engine
deriving DecidableEq, Repr

/-- What the surroundings do at one step: whether the reset input is asserted, and whose turn it
is. Reset has priority over the turn (70_reset_and_hazards.md R170, 60_exceptions.md R160). -/
structure Input where
  rst : Bool
  turn : Turn
deriving DecidableEq, Repr

/-- What the bus hands back to the host for its last access (60_exceptions.md R155, log 11). -/
inductive Response where
  /-- No access since reset. -/
  | none
  /-- A write was taken by the bus (accepted, ignored or dropped). -/
  | written
  /-- The value of a 32-bit read. -/
  | word (v : Word)
  /-- The value of an 8-bit read. -/
  | byte (b : Byte)
  /-- The bus error response (60_exceptions.md R155). -/
  | busError
  /-- The address lies outside the block's window: the platform's business (log 8). -/
  | notSelected
deriving DecidableEq, Repr

/-- The twenty registers (10_state.md R30). -/
inductive Reg where
  | id | caps | ctrl | status | cmd | tag | tflags | src | slen | ocur | icur | iend
  | rlen | rtag | rcrc | ccrc | poff | count | errpos | rtflags
deriving DecidableEq, Repr

/-- Every piece of state the spec gives the block (10_state.md R35, R47), its parameters (00_scope.md
R6), and four fields of the model's own: `inputs`, `resp`, `draws`, `resets`. -/
structure State where
  /-- The instance's parameters (00_scope.md R6); no step changes them. -/
  cfg : Config
  /-- CTRL.IE (10_state.md R38). -/
  ie : Bool
  /-- STATUS.BUSY (10_state.md R39). -/
  busy : Bool
  /-- STATUS.DONE. -/
  done : Bool
  /-- STATUS.ERR. -/
  err : Bool
  /-- STATUS.OVR. -/
  ovr : Bool
  /-- STATUS.ECODE. -/
  ecode : BitVec 4
  /-- STATUS.TFIELD. -/
  tfield : BitVec 2
  /-- TAG (10_state.md R41). -/
  tag : Word
  /-- SRC (10_state.md R43). -/
  src : Word
  /-- SLEN (10_state.md R43). -/
  slen : Word
  /-- OCUR (10_state.md R44). -/
  ocur : Word
  /-- ICUR (10_state.md R44). -/
  icur : Word
  /-- IEND (10_state.md R44). -/
  iend : Word
  /-- RLEN (10_state.md R45). -/
  rlen : Word
  /-- RTAG (10_state.md R45). -/
  rtag : Word
  /-- RCRC (10_state.md R45). -/
  rcrc : Word
  /-- CCRC (10_state.md R45). -/
  ccrc : Word
  /-- POFF (10_state.md R45). -/
  poff : Word
  /-- COUNT (10_state.md R46). -/
  count : Word
  /-- ERRPOS (10_state.md R46). -/
  errpos : Word
  /-- The hidden cursor error flag CERR (10_state.md R47). -/
  cerr : Bool
  /-- The hidden LATCH, the last accepted command word (10_state.md R47). -/
  latch : Word
  /-- IBUF (20_memory.md R52). -/
  ibuf : Memory
  /-- OBUF (20_memory.md R53). -/
  obuf : Memory
  /-- The model's own: what happens next, oldest first (log 3). -/
  inputs : List Input
  /-- The model's own: the response to the last host access (log 11). -/
  resp : Response
  /-- The model's own: the index of the next draw of 20_memory.md R61 (log 5). -/
  draws : Nat
  /-- The model's own: which reset the unspecified buffer bytes come from (log 6). -/
  resets : Nat
deriving DecidableEq, Repr

/-- Why a step stops with a fault. There is no such reason: no behaviour of the block is stuck and
every failure is a value in STATUS (44_control.md R142, R149), and a bus error is a response that
leaves the block as it was (60_exceptions.md R155, log 7). No constructor, so nobody raises one;
safe. -/
inductive Fault where
deriving DecidableEq, Repr

/-- Why an instruction has no meaning. -/
inductive Refusal where
  /-- Raised by an arm of `exec` whose instruction is not modelled yet; no arm raises it now. Safe: the
  machine stops where the hardware goes on. -/
  | notModelled (mnemonic : String)
deriving DecidableEq, Repr

/-- The state at the release of the reset input, for an instance with parameters `c`
(70_reset_and_hazards.md R170): the registers at the spec's values, no buffer byte written. -/
def State.resetOf (c : Config) : State where
  cfg := c
  ie := false
  busy := false
  done := false
  err := false
  ovr := false
  ecode := 0
  tfield := 0
  tag := 0
  src := 0
  slen := 0
  ocur := 0
  icur := 0
  iend := 0
  rlen := 0
  rtag := 0
  rcrc := 0
  ccrc := 0
  poff := 0
  count := 0
  errpos := 0
  cerr := false
  latch := 0
  ibuf := []
  obuf := []
  inputs := []
  resp := .none
  draws := 0
  resets := 0

/-- The machine right after reset, at the reference parameters (70_reset_and_hazards.md R170, log 1). -/
def State.reset : State := State.resetOf Config.reference

end Sys2Proof.Machine
end

