-- ==== Sys2Proof/Machine/Ops.lean ====
section
/-! DEFINITION. The named operations: byte order, buffers, command acceptance and completion, free
values, reset. -/

namespace Sys2Proof.Machine

/-! ### Byte order (00_scope.md R10, R13) -/

/-- `be32` of a 4-byte string: the first byte is the most significant (00_scope.md R10). It is also
`tagword` (R13). -/
def be32 (b0 b1 b2 b3 : Byte) : Word := b0 ++ b1 ++ b2 ++ b3

/-- Byte `i` of a 32-bit value, byte 0 the most significant (00_scope.md R10, R13). -/
def byteOf (v : Word) (i : Nat) : Byte := v.extractLsb' (24 - 8 * i) 8

/-- `bytes_be32(v)` (00_scope.md R10). It is also `tagbytes` (R13). -/
def bytesBe32 (v : Word) : List Byte := [byteOf v 0, byteOf v 1, byteOf v 2, byteOf v 3]

/-- `w32(v) = v mod 2^32` (00_scope.md R9). -/
def w32 (n : Nat) : Word := BitVec.ofNat 32 n

/-! ### A buffer as a list of written bytes -/

/-- The byte written at `a` since reset, if one was. -/
def Memory.byteAt : Memory → Nat → Option Byte
  | [], _ => none
  | (k, b) :: m, a => if k = a then some b else Memory.byteAt m a

/-- Write one byte, keeping addresses strictly rising. -/
def Memory.store : Memory → Nat → Byte → Memory
  | [], a, b => [(a, b)]
  | (k, v) :: m, a, b =>
    if a < k then (a, b) :: (k, v) :: m
    else if a = k then (a, b) :: m
    else (k, v) :: Memory.store m a b

/-- Write a byte string at `a` (00_scope.md R11). -/
def Memory.storeBytes : Memory → Nat → List Byte → Memory
  | m, _, [] => m
  | m, a, b :: bs => Memory.storeBytes (Memory.store m a b) (a + 1) bs

/-- The canonical form: addresses strictly rising. -/
def Memory.wf : Memory → Bool
  | [] => true
  | [_] => true
  | (a, _) :: (k, v) :: m => decide (a < k) && Memory.wf ((k, v) :: m)

/-- Every listed address lies below `size`. -/
def Memory.within (m : Memory) (size : Nat) : Bool := m.all (fun c => decide (c.1 < size))

/-! ### Buffers of a state (20_memory.md R52 to R54, R56) -/

/-- `IBUF_SIZE` (00_scope.md R6). -/
def ibufSize (c : Config) : Nat := 2 ^ c.ibufLog2

/-- `OBUF_SIZE` (00_scope.md R6). -/
def obufSize (c : Config) : Nat := 2 ^ c.obufLog2

/-- `IBUF[a]`: the byte written there, or its unspecified reset value (70_reset_and_hazards.md R170, log 6). -/
def ibufByte (s : State) (a : Nat) : Byte :=
  (Memory.byteAt s.ibuf a).getD (Config.ibufResetByte s.resets a)

/-- `OBUF[a]`: the byte written there, or its unspecified reset value (70_reset_and_hazards.md R170, log 6). -/
def obufByte (s : State) (a : Nat) : Byte :=
  (Memory.byteAt s.obuf a).getD (Config.obufResetByte s.resets a)

/-- The `n` bytes `f[a..a+n)` of a buffer `f` (00_scope.md R8, R11). -/
def memRead (f : Nat → Byte) (a : Nat) : Nat → List Byte
  | 0 => []
  | n + 1 => f a :: memRead f (a + 1) n

/-- `be32(f[a..a+4))` (30_encoding.md R81, 20_memory.md R56). -/
def be32At (f : Nat → Byte) (a : Nat) : Word := be32 (f a) (f (a + 1)) (f (a + 2)) (f (a + 3))

/-- Write bytes to IBUF; only the host does (20_memory.md R52). -/
def putIbuf (a : Nat) (bs : List Byte) (s : State) : State :=
  { s with ibuf := Memory.storeBytes s.ibuf a bs }

/-- `MemWrite(OBUF, a, bs)` (00_scope.md R11), also the host's write to OBUF (20_memory.md R53). -/
def putObuf (a : Nat) (bs : List Byte) (s : State) : State :=
  { s with obuf := Memory.storeBytes s.obuf a bs }

/-! ### Acceptance and completion (44_control.md R141, R144) -/

/-- Acceptance of the command word `w` (44_control.md R141). -/
def acceptCmd (w : Word) (s : State) : State :=
  { s with latch := w, busy := true, done := false, err := false, ecode := 0, tfield := 0 }

/-- The failure kinds the block raises (60_exceptions.md R150). ChunkNotFound (5), InvalidText (6) and
codes 9 to 15 are never raised, so they are no constructors. -/
inductive Failure where
  | malformedTag
  /-- Truncated, with the index of the record field that was short: 0 length, 1 type, 2 data, 3 crc. -/
  | truncated (field : BitVec 2)
  | checksumMismatch
  | badSignature
  | illegalCommand
  | rangeError
deriving DecidableEq, Repr

/-- STATUS.ECODE of a failure (60_exceptions.md R150). -/
def failureCode : Failure → BitVec 4
  | .malformedTag => 1
  | .truncated _ => 2
  | .checksumMismatch => 3
  | .badSignature => 4
  | .illegalCommand => 7
  | .rangeError => 8

/-- STATUS.TFIELD of a failure (44_control.md R144). -/
def failureField : Failure → BitVec 2
  | .truncated k => k
  | _ => 0

/-- Completion with an error code and a field index (44_control.md R144). -/
def complete (code : BitVec 4) (k : BitVec 2) (s : State) : State :=
  { s with
    ecode := code, err := code != 0, tfield := if code = 2 then k else 0, busy := false, done := true }

/-- `finish` (00_scope.md R12). -/
def finish (s : State) : State := complete 0 0 s

/-- `fail E` (00_scope.md R12): the block's one way to take a failure. Its record is STATUS and what
the command's own rule writes; nothing is saved and no control is transferred (60_exceptions.md
R154), so there is no return beside it (R158). -/
def failWith (e : Failure) (s : State) : State := complete (failureCode e) (failureField e) s

/-! ### The bus (20_memory.md R60, R61) -/

/-- Hand a response to the host. -/
def respond (r : Response) (s : State) : State := { s with resp := r }

/-- A host write dropped because BUSY = 1 (20_memory.md R60). -/
def overrun (s : State) : State := { s with ovr := true }

/-- The draw the next read during BUSY returns (20_memory.md R61, log 5). -/
def nextDraw (s : State) : Word := Config.draw s.draws

/-- The next draw will be a fresh one (20_memory.md R61). -/
def consumeDraw (s : State) : State := { s with draws := s.draws + 1 }

/-! ### Reset (70_reset_and_hazards.md R170) -/

/-- The reset input: every piece of the block's state takes its reset value. The surroundings'
inputs and the counters of free values are not the block's and go on (log 12). -/
def applyReset (s : State) : State :=
  { State.resetOf s.cfg with inputs := s.inputs, draws := s.draws, resets := s.resets + 1 }

end Sys2Proof.Machine
end

