-- ==== Sys2Proof/Machine/Flags.lean ====
section
/-! DEFINITION. Every value computed from other state: the tag classifier, STATUS with its cursor
state, CTRL, CAPS, the IRQ line. -/

namespace Sys2Proof.Machine

/-- A one-bit value as the bit of a word at position `i`. -/
def bitAt (b : Bool) (i : Nat) : Word := if b then (1 : Word) <<< i else 0

/-! ### The tag classifier (40_tag.md) -/

/-- `isLetter(b)` (00_scope.md R13). -/
def isLetter (b : Byte) : Bool :=
  (decide (0x41 ≤ b.toNat) && decide (b.toNat ≤ 0x5A)) || (decide (0x61 ≤ b.toNat) && decide (b.toNat ≤ 0x7A))

/-- The flag of a tag byte, bit 5, mask 0x20 (30_encoding.md R86). -/
def flagBit (b : Byte) : Bool := (b &&& 0x20) != 0

/-- LETi: tag byte `i` is an ASCII letter (40_tag.md R105). -/
def tagLetter (t : Word) (i : Nat) : Bool := isLetter (byteOf t i)

/-- CRITICAL (40_tag.md R101). -/
def tagCritical (t : Word) : Bool := !flagBit (byteOf t 0)

/-- PUBLIC (40_tag.md R102). -/
def tagPublic (t : Word) : Bool := !flagBit (byteOf t 1)

/-- RSVOK (40_tag.md R103). -/
def tagRsvOk (t : Word) : Bool := !flagBit (byteOf t 2)

/-- SAFE (40_tag.md R104): the opposite sense, bit set gives 1. -/
def tagSafe (t : Word) : Bool := flagBit (byteOf t 3)

/-- All four tag bytes are letters. -/
def tagAllLetters (t : Word) : Bool :=
  tagLetter t 0 && tagLetter t 1 && tagLetter t 2 && tagLetter t 3

/-- VALID (40_tag.md R105). -/
def tagValid (t : Word) : Bool := tagAllLetters t && tagRsvOk t

/-- `classify(t)`, read by TFLAGS and RTFLAGS (40_tag.md R106, 10_state.md R42). -/
def classify (t : Word) : Word :=
  bitAt (tagLetter t 0) 0 ||| bitAt (tagLetter t 1) 1 ||| bitAt (tagLetter t 2) 2 |||
  bitAt (tagLetter t 3) 3 ||| bitAt (tagCritical t) 4 ||| bitAt (tagPublic t) 5 |||
  bitAt (tagRsvOk t) 6 ||| bitAt (tagSafe t) 7 ||| bitAt (tagValid t) 8

/-! ### STATUS (10_state.md R29, R39) -/

/-- STATUS.CSTATE, computed at every read (10_state.md R29): 2 ERROR, 1 EXHAUSTED, 0 MORE, 3 BEYOND. -/
def cstate (s : State) : BitVec 2 :=
  if s.cerr then 2
  else if s.icur.toNat = s.iend.toNat then 1
  else if s.icur.toNat < s.iend.toNat then 0
  else 3

/-- STATUS as a word, with the given value in its CSTATE field (10_state.md R39). -/
def statusWordWith (c : BitVec 2) (s : State) : Word :=
  bitAt s.busy 0 ||| bitAt s.done 1 ||| bitAt s.err 2 ||| bitAt s.ovr 3 |||
  (s.ecode.setWidth 32 <<< 4) ||| (s.tfield.setWidth 32 <<< 8) ||| (c.setWidth 32 <<< 10)

/-- STATUS as a word (10_state.md R39). -/
def statusWord (s : State) : Word := statusWordWith (cstate s) s

/-- A host write to STATUS clears DONE and OVR where the written bit is 1, and does nothing else
(10_state.md R39). -/
def writeStatus (v : Word) (s : State) : State :=
  { s with done := s.done && !v.getLsbD 1, ovr := s.ovr && !v.getLsbD 3 }

/-! ### CTRL, ID, CAPS, IRQ -/

/-- CTRL as a word: bits 31:1 read 0 (10_state.md R38). -/
def ctrlWord (s : State) : Word := bitAt s.ie 0

/-- A host write to CTRL stores bit 0 (10_state.md R38). -/
def writeCtrl (v : Word) (s : State) : State := { s with ie := v.getLsbD 0 }

/-- ID, the constant "CRCF" (10_state.md R36). -/
def idWord : Word := 0x43524346

/-- CAPS: bits 4:0 IBUF_LOG2, bits 12:8 OBUF_LOG2, bits 23:16 VERSION = 1 (10_state.md R37). -/
def capsWord (c : Config) : Word :=
  0x00010000 ||| (BitVec.ofNat 32 c.obufLog2 <<< 8) ||| BitVec.ofNat 32 c.ibufLog2

/-- The output line `IRQ = CTRL.IE ∧ STATUS.DONE` (60_exceptions.md R157). -/
def irq (s : State) : Bool := s.ie && s.done

/-- Whether line `n` of the platform's interrupt controller is driven by the block: only line
`CRCF_IRQ_LINE` is (60_exceptions.md R157). -/
def irqLineDriven (s : State) (n : Nat) : Bool := decide (n = s.cfg.irqLine) && irq s

end Sys2Proof.Machine
end

