-- ==== Sys2Proof/Machine/Bus.lean ====
section
/-! DEFINITION. Host accesses: the address map, the access rules, register and buffer reads and
writes, and what BUSY = 1 does to them (20_memory.md, 10_state.md). -/

namespace Sys2Proof.Machine

/-- What a host address reaches (20_memory.md R51). -/
inductive Target where
  /-- The register block, at an offset of 0x00 to 0xFF. -/
  | regs (off : Nat)
  /-- IBUF byte `a`. -/
  | ibuf (a : Nat)
  /-- OBUF byte `a`. -/
  | obuf (a : Nat)
  /-- A hole of the block's window. -/
  | unmapped
  /-- Not in the block's window (log 8). -/
  | outside
deriving DecidableEq, Repr

/-- The address map (20_memory.md R51). -/
def busTarget (c : Config) (addr : Nat) : Target :=
  let off := addr - c.base
  if addr < c.base ∨ 2 ^ 20 ≤ off then .outside
  else if off < 0x100 then .regs off
  else if off < 0x40000 then .unmapped
  else if off < 0x40000 + ibufSize c then .ibuf (off - 0x40000)
  else if off < 0x80000 then .unmapped
  else if off < 0x80000 + obufSize c then .obuf (off - 0x80000)
  else .unmapped

/-- Whether the width and alignment of an access fit what it reaches (20_memory.md R55, R58). -/
def accessFits : Target → Width → Bool
  | .regs off, .w32 => off % 4 == 0
  | .ibuf _, .w8 => true
  | .ibuf a, .w32 => a % 4 == 0
  | .obuf _, .w8 => true
  | .obuf a, .w32 => a % 4 == 0
  | _, _ => false

/-- The register at an offset of the register block; none at a reserved offset (10_state.md R30). -/
def regAt : Nat → Option Reg
  | 0x00 => some .id
  | 0x04 => some .caps
  | 0x08 => some .ctrl
  | 0x0C => some .status
  | 0x10 => some .cmd
  | 0x14 => some .tag
  | 0x18 => some .tflags
  | 0x1C => some .src
  | 0x20 => some .slen
  | 0x24 => some .ocur
  | 0x28 => some .icur
  | 0x2C => some .iend
  | 0x30 => some .rlen
  | 0x34 => some .rtag
  | 0x38 => some .rcrc
  | 0x3C => some .ccrc
  | 0x40 => some .poff
  | 0x44 => some .count
  | 0x48 => some .errpos
  | 0x4C => some .rtflags
  | _ => none

/-- The value a register reads as when no command runs (10_state.md R30). -/
def regValue (r : Reg) (s : State) : Word :=
  match r with
  | .id => idWord
  | .caps => capsWord s.cfg
  | .ctrl => ctrlWord s
  | .status => statusWord s
  | .cmd => 0
  | .tag => s.tag
  | .tflags => classify s.tag
  | .src => s.src
  | .slen => s.slen
  | .ocur => s.ocur
  | .icur => s.icur
  | .iend => s.iend
  | .rlen => s.rlen
  | .rtag => s.rtag
  | .rcrc => s.rcrc
  | .ccrc => s.ccrc
  | .poff => s.poff
  | .count => s.count
  | .errpos => s.errpos
  | .rtflags => classify s.rtag

/-- The registers a running command may be writing: a read during BUSY is a draw (20_memory.md R61). -/
def engineWritten : Reg → Bool
  | .tag | .tflags | .ocur | .icur | .rlen | .rtag | .rcrc | .ccrc | .poff | .count | .errpos
  | .rtflags => true
  | .id | .caps | .ctrl | .status | .cmd | .src | .slen | .iend => false

/-- A host read of a register (10_state.md R30, 20_memory.md R61). -/
def readReg (r : Reg) (s : State) : State :=
  if s.busy && engineWritten r then consumeDraw (respond (.word (nextDraw s)) s)
  else if s.busy && r == .status then
    consumeDraw (respond (.word (statusWordWith ((nextDraw s).setWidth 2) s)) s)
  else respond (.word (regValue r s)) s

/-- A host write to an operand register or buffer is dropped, setting OVR, while BUSY = 1
(20_memory.md R60). -/
def unlessBusy (write : State → State) (s : State) : State :=
  if s.busy then overrun s else write s

/-- A host write to a register (10_state.md R30, R38 to R44; 20_memory.md R60). A write to ICUR or IEND
also clears CERR (10_state.md R47). Writes to RO and COMB registers are ignored. -/
def writeReg (r : Reg) (v : Word) (s : State) : State :=
  match r with
  | .ctrl => writeCtrl v s
  | .status => writeStatus v s
  | .cmd => unlessBusy (acceptCmd v) s
  | .tag => unlessBusy (fun s => { s with tag := v }) s
  | .src => unlessBusy (fun s => { s with src := v }) s
  | .slen => unlessBusy (fun s => { s with slen := v }) s
  | .ocur => unlessBusy (fun s => { s with ocur := v }) s
  | .icur => unlessBusy (fun s => { s with icur := v, cerr := false }) s
  | .iend => unlessBusy (fun s => { s with iend := v, cerr := false }) s
  | .id | .caps | .tflags | .rlen | .rtag | .rcrc | .ccrc | .poff | .count | .errpos | .rtflags => s

/-- The response to a read of a buffer `f` at byte `a` (20_memory.md R56). -/
def bufferValue (f : Nat → Byte) (a : Nat) : Width → Response
  | .w8 => .byte (f a)
  | .w32 => .word (be32At f a)
  | .unsupported => .busError

/-- The response to a read of OBUF during BUSY: any value of the access's width (20_memory.md R61). -/
def drawnValue (d : Word) : Width → Response
  | .w8 => .byte (d.setWidth 8)
  | .w32 => .word d
  | .unsupported => .busError

/-- The bytes a buffer write of data `v` stores, lowest address first (20_memory.md R56). -/
def writtenBytes (v : Word) : Width → List Byte
  | .w8 => [byteOf v 3]
  | .w32 => bytesBe32 v
  | .unsupported => []

/-- A host read whose width and alignment fit (20_memory.md R59, R61). A reserved register offset reads
0 (10_state.md R30). -/
def readTarget (t : Target) (w : Width) (s : State) : State :=
  match t with
  | .regs off =>
    match regAt off with
    | some r => readReg r s
    | none => respond (.word 0) s
  | .ibuf a => respond (bufferValue (ibufByte s) a w) s
  | .obuf a =>
    if s.busy then consumeDraw (respond (drawnValue (nextDraw s) w) s)
    else respond (bufferValue (obufByte s) a w) s
  | .unmapped => respond .busError s
  | .outside => respond .notSelected s

/-- A host write whose width and alignment fit. A write to a reserved register offset is ignored
(10_state.md R30). -/
def writeTarget (t : Target) (w : Width) (v : Word) (s : State) : State :=
  match t with
  | .regs off =>
    match regAt off with
    | some r => respond .written (writeReg r v s)
    | none => respond .written s
  | .ibuf a => respond .written (unlessBusy (putIbuf a (writtenBytes v w)) s)
  | .obuf a => respond .written (unlessBusy (putObuf a (writtenBytes v w)) s)
  | .unmapped => respond .busError s
  | .outside => respond .notSelected s

/-- The width of an access. -/
def accessWidth : Access → Width
  | .read w _ => w
  | .write w _ _ => w

/-- The address of an access. -/
def accessAddr : Access → Nat
  | .read _ a => a
  | .write _ a _ => a

/-- One host access. One outside the window does not reach the block (20_memory.md R51); one that
breaks the access rules gets a bus error and has no other effect (20_memory.md R57, R58,
60_exceptions.md R155). -/
def hostAccess (a : Access) (s : State) : State :=
  let t := busTarget s.cfg (accessAddr a)
  if t = .outside then respond .notSelected s
  else if accessFits t (accessWidth a) then
    match a with
    | .read w _ => readTarget t w s
    | .write w _ v => writeTarget t w v s
  else respond .busError s

end Sys2Proof.Machine
end

