-- ==== Sys2Proof/Syntax.lean ====
section
/-! DEFINITION. The command set of CRCF, one constructor for each row of spec/opcode_table.json. -/

namespace Sys2Proof

/-- The eight commands (44_control.md R140, 30_encoding.md R72). Every operand is an implicit
register (R74), so no constructor has arguments. The illegal word of R140 is the decoder's
rejection (log 9). -/
inductive Instr where
  /-- OP 0x00 (44_control.md R145). -/
  | nop
  /-- OP 0x01 (40_tag.md R108). -/
  | tagstr
  /-- OP 0x02 (41_crc.md R113). -/
  | crc
  /-- OP 0x03 (42_chunk.md R120). -/
  | encode
  /-- OP 0x04 (42_chunk.md R122). -/
  | decode
  /-- OP 0x05 (43_container.md R130). -/
  | sigchk
  /-- OP 0x06 (43_container.md R131). -/
  | sigemit
  /-- OP 0x07 (43_container.md R132). -/
  | validate
deriving DecidableEq, Repr

end Sys2Proof
end

