-- ==== Sys2Proof/WellFormed.lean ====
section
/-! DEFINITION. Well-formedness of instructions and of an instance's parameters. -/

namespace Sys2Proof

/-- A command has no operand fields (30_encoding.md R70), so every instruction is well-formed. -/
def Instr.wellFormed : Instr → Bool
  | .nop | .tagstr | .crc | .encode | .decode | .sigchk | .sigemit | .validate => true

/-- A buffer size the block may have: log2 from 4 to 18 (00_scope.md R6). -/
def Config.legalLog2 (k : Nat) : Bool := decide (4 ≤ k) && decide (k ≤ 18)

/-- The window's base is a multiple of 2^20 (00_scope.md R6). -/
def Config.legalBase (b : Nat) : Bool := decide (b % 2 ^ 20 = 0)

/-- The legal values of the parameters (00_scope.md R6). -/
def Config.wellFormed (c : Config) : Bool :=
  Config.legalLog2 c.ibufLog2 && Config.legalLog2 c.obufLog2 && Config.legalBase c.base

end Sys2Proof
end

