-- ==== Sys2Proof/Decode.lean ====
section
/-! DEFINITION. The command word's decoder and encoder (30_encoding.md section 1). -/

namespace Sys2Proof

/-- Why a command word selects no row of the opcode map (30_encoding.md R73). -/
inductive DecodeReject where
  /-- `w[31:8] ≠ 0`. -/
  | reservedBits
  /-- `w[31:8] = 0` and `w[7:0]` in 0x08 to 0xFF. -/
  | reservedOp
deriving DecidableEq, Repr

/-- OP, bits 7:0 of a command word (30_encoding.md R70). -/
def opField (w : Word) : BitVec 8 := w.extractLsb' 0 8

/-- RSV, bits 31:8 of a command word (30_encoding.md R70). -/
def rsvField (w : Word) : BitVec 24 := w.extractLsb' 8 24

/-- One row of the opcode map: a word selects it when it agrees with `pattern` on `mask`. -/
structure OpcodeRow where
  mask : Word
  pattern : Word
  instr : Instr
deriving DecidableEq, Repr

/-- The opcode map (30_encoding.md R72); the mask is 0xFFFFFFFF for every row (R71). -/
def opcodeTable : List OpcodeRow :=
  [ ⟨0xFFFFFFFF, 0x00000000, .nop⟩,
    ⟨0xFFFFFFFF, 0x00000001, .tagstr⟩,
    ⟨0xFFFFFFFF, 0x00000002, .crc⟩,
    ⟨0xFFFFFFFF, 0x00000003, .encode⟩,
    ⟨0xFFFFFFFF, 0x00000004, .decode⟩,
    ⟨0xFFFFFFFF, 0x00000005, .sigchk⟩,
    ⟨0xFFFFFFFF, 0x00000006, .sigemit⟩,
    ⟨0xFFFFFFFF, 0x00000007, .validate⟩ ]

/-- A word that matches no row is named by what is wrong with it (30_encoding.md R71, R73). -/
def rejectReason (w : Word) : DecodeReject :=
  if rsvField w = 0 then .reservedOp else .reservedBits

/-- Decoding is total on all 2^32 words (30_encoding.md R71). -/
def decode (w : Word) : Except DecodeReject Instr :=
  match opcodeTable.find? (fun r => w &&& r.mask == r.pattern) with
  | some r => .ok r.instr
  | none => .error (rejectReason w)

/-- The word of an instruction, its `match` value (30_encoding.md R72). -/
def encode : Instr → Word
  | .nop => 0x00000000
  | .tagstr => 0x00000001
  | .crc => 0x00000002
  | .encode => 0x00000003
  | .decode => 0x00000004
  | .sigchk => 0x00000005
  | .sigemit => 0x00000006
  | .validate => 0x00000007

/-- What the decoder reads from an instruction whose bits are `w`, numbered as
spec/opcode_table.json numbers them. A command is exactly one 32-bit word (30_encoding.md R75)
and has no byte order (20_memory.md R50): a number of more than 32 bits is no command. -/
def decodeTableWord (nbits w : Nat) : Option Instr :=
  let v := w % 2 ^ nbits
  if v < 2 ^ 32 then
    match decode (BitVec.ofNat 32 v) with
    | .ok i => some i
    | .error _ => none
  else none

end Sys2Proof
end

