-- ==== Sys2Proof/Machine/Operands.lean ====
section
/-! DEFINITION. The implicit operands of the commands (30_encoding.md R74) and their range checks
(44_control.md R143), on unbounded naturals (00_scope.md R9). -/

namespace Sys2Proof.Machine

/-- The source string `IBUF[SRC..SRC+n)` does not lie inside IBUF (44_control.md R143). -/
def srcOutOfRange (n : Nat) (s : State) : Bool := decide (s.src.toNat + n > ibufSize s.cfg)

/-- `n` bytes at OCUR do not fit OBUF (44_control.md R143). -/
def outOutOfRange (n : Nat) (s : State) : Bool := decide (s.ocur.toNat + n > obufSize s.cfg)

/-- IEND lies beyond IBUF, or ICUR beyond IEND (44_control.md R143). -/
def cursorOutOfRange (s : State) : Bool :=
  decide (s.iend.toNat > ibufSize s.cfg) || decide (s.icur.toNat > s.iend.toNat)

/-- The source string `IBUF[SRC..SRC+SLEN)` (10_state.md R43). -/
def srcString (s : State) : List Byte := memRead (ibufByte s) s.src.toNat s.slen.toNat

end Sys2Proof.Machine
end

