-- ==== Sys2Proof/Machine/Crc.lean ====
section
/-! DEFINITION. The CRC-32 function and the CRC command (41_crc.md). -/

namespace Sys2Proof.Machine

/-- One of the eight shifts of a byte (41_crc.md R110). -/
def crcBit (c : Word) : Word := if c.getLsbD 0 then (c >>> 1) ^^^ 0xEDB88320 else c >>> 1

/-- `n` shifts (41_crc.md R110). -/
def crcShift : Nat → Word → Word
  | 0, c => c
  | n + 1, c => crcShift n (crcBit c)

/-- The register after one more byte (41_crc.md R110). -/
def crcByte (c : Word) (b : Byte) : Word := crcShift 8 (c ^^^ b.setWidth 32)

/-- The register after one more byte string, without the final exclusive or (41_crc.md R110). -/
def crcBytes : Word → List Byte → Word
  | c, [] => c
  | c, b :: bs => crcBytes (crcByte c b) bs

/-- `CRC32(s)` (41_crc.md R110). -/
def crc32 (bs : List Byte) : Word := crcBytes 0xFFFFFFFF bs ^^^ 0xFFFFFFFF

/-- CRC (41_crc.md R113). -/
def execCrc (s : State) : Host.Outcome State Fault Refusal :=
  .next (
    if srcOutOfRange s.slen.toNat s then failWith .rangeError s
    else finish { s with ccrc := crc32 (srcString s) })

end Sys2Proof.Machine
end

