-- ==== Sys2Proof/Machine/Chunk.lean ====
section
/-! DEFINITION. Chunk framing and deframing: ENCODE, the record parser, DECODE (42_chunk.md). -/

namespace Sys2Proof.Machine

/-- The bytes of a record (30_encoding.md R81): length, type, data, crc. -/
def recordBytes (len tag : Word) (data : List Byte) (crc : Word) : List Byte :=
  bytesBe32 len ++ bytesBe32 tag ++ data ++ bytesBe32 crc

/-- The checksum of a record, over type and data (30_encoding.md R83). -/
def recordCrc (tag : Word) (data : List Byte) : Word := crc32 (bytesBe32 tag ++ data)

/-- ENCODE (42_chunk.md R120). -/
def execEncode (s : State) : Host.Outcome State Fault Refusal :=
  .next (
    if srcOutOfRange s.slen.toNat s then failWith .rangeError s
    else if outOutOfRange (12 + s.slen.toNat) s then failWith .rangeError s
    else
      let p := srcString s
      let c := recordCrc s.tag p
      finish { putObuf s.ocur.toNat (recordBytes s.slen s.tag p c) s with
        rlen := s.slen, rtag := s.tag, rcrc := c, ccrc := c, ocur := w32 (s.ocur.toNat + 12 + s.slen.toNat) })

/-- The fields of a record whose bytes are all present (42_chunk.md R121). -/
structure Record where
  /-- The declared length `L`. -/
  len : Word
  /-- The type, packed by `tagword`. -/
  tag : Word
  /-- The stored checksum `s`. -/
  stored : Word
  /-- The computed checksum `k`. -/
  computed : Word
  /-- The offset of the payload, `c + 8`. -/
  poff : Nat
deriving DecidableEq, Repr

/-- Why a record does not parse, with the fields that were fully read (42_chunk.md R121, R123). -/
inductive BadRecord where
  /-- `Trunc(0)`: the length field is short. -/
  | shortLength
  /-- `Trunc(1)`: the type field is short. -/
  | shortType (len : Word)
  /-- `Trunc(2)`: the data is shorter than declared. -/
  | shortData (len tag : Word)
  /-- `Trunc(3)`: the crc field is short. -/
  | shortCrc (len tag : Word)
  /-- `Mismatch`: the stored checksum differs from the computed one. -/
  | mismatch (r : Record)
deriving DecidableEq, Repr

/-- The result of the record parser (42_chunk.md R121). -/
inductive Parse where
  /-- `Ok`, with the offset where the next record starts. -/
  | ok (r : Record) (next : Nat)
  | bad (b : BadRecord)
deriving DecidableEq, Repr

/-- `decodeAt(c, e)` over the bytes `f` (42_chunk.md R121). -/
def decodeAt (f : Nat → Byte) (c e : Nat) : Parse :=
  let r := e - c
  let len := be32At f c
  let tag := be32At f (c + 4)
  if r < 4 then .bad .shortLength
  else if r < 8 then .bad (.shortType len)
  else if r < 8 + len.toNat then .bad (.shortData len tag)
  else if r < 12 + len.toNat then .bad (.shortCrc len tag)
  else
    let stored := be32At f (c + 8 + len.toNat)
    let computed := crc32 (memRead f (c + 4) 4 ++ memRead f (c + 8) len.toNat)
    let fields : Record :=
      { len := len, tag := tag, stored := stored, computed := computed, poff := c + 8 }
    if computed ≠ stored then .bad (.mismatch fields) else .ok fields (c + 12 + len.toNat)

/-- The failure kind of a bad record (42_chunk.md R122). -/
def badFailure : BadRecord → Failure
  | .shortLength => .truncated 0
  | .shortType _ => .truncated 1
  | .shortData _ _ => .truncated 2
  | .shortCrc _ _ => .truncated 3
  | .mismatch _ => .checksumMismatch

/-- The registers a parsed record leaves (42_chunk.md R122; on a mismatch R123). -/
def recordRegs (r : Record) (s : State) : State :=
  { s with rlen := r.len, rtag := r.tag, rcrc := r.stored, ccrc := r.computed, poff := w32 r.poff }

/-- The diagnostic registers of a bad record (42_chunk.md R123). -/
def diagnose : BadRecord → State → State
  | .shortLength, s => s
  | .shortType len, s => { s with rlen := len }
  | .shortData len tag, s => { s with rlen := len, rtag := tag }
  | .shortCrc len tag, s => { s with rlen := len, rtag := tag }
  | .mismatch r, s => recordRegs r s

/-- A failure of DECODE, SIGCHK or VALIDATE found at offset `pos` (60_exceptions.md R151): ERRPOS and
CERR are written. -/
def cursorFail (e : Failure) (pos : Word) (s : State) : State :=
  failWith e { s with errpos := pos, cerr := true }

/-- DECODE (42_chunk.md R122). -/
def execDecode (s : State) : Host.Outcome State Fault Refusal :=
  .next (
    if cursorOutOfRange s then cursorFail .rangeError s.icur s
    else
      match decodeAt (ibufByte s) s.icur.toNat s.iend.toNat with
      | .ok r next => finish { recordRegs r s with icur := w32 next, cerr := false }
      | .bad b => cursorFail (badFailure b) s.icur (diagnose b s))

end Sys2Proof.Machine
end

