-- ==== Sys2Proof/Machine/Container.lean ====
section
/-! DEFINITION. Container framing: SIGCHK, SIGEMIT, VALIDATE (43_container.md). -/

namespace Sys2Proof.Machine

/-- `SIG`, the container signature (30_encoding.md R80). -/
def signature : List Byte := [0x89, 0x50, 0x4E, 0x47, 0x0D, 0x0A, 0x1A, 0x0A]

/-- The bytes from ICUR to IEND do not begin with the signature (43_container.md R130). -/
def signatureMissing (s : State) : Bool :=
  decide (s.iend.toNat - s.icur.toNat < 8) || memRead (ibufByte s) s.icur.toNat 8 != signature

/-- SIGCHK (43_container.md R130). -/
def execSigchk (s : State) : Host.Outcome State Fault Refusal :=
  .next (
    if cursorOutOfRange s then cursorFail .rangeError s.icur s
    else if signatureMissing s then cursorFail .badSignature s.icur s
    else finish { s with icur := w32 (s.icur.toNat + 8), cerr := false })

/-- SIGEMIT (43_container.md R131). -/
def execSigemit (s : State) : Host.Outcome State Fault Refusal :=
  .next (
    if outOutOfRange 8 s then failWith .rangeError s
    else finish { putObuf s.ocur.toNat signature s with ocur := w32 (s.ocur.toNat + 8) })

/-- What VALIDATE's first pass finds (43_container.md R132). -/
inductive Scan where
  /-- Every record parsed, each with the offset where it starts, in stream order. -/
  | records (recs : List (Nat × Record))
  /-- The first record that does not parse, and the offset where it starts. -/
  | bad (pos : Nat) (b : BadRecord)
deriving DecidableEq, Repr

/-- Put a parsed record in front of what the rest of the scan finds. -/
def scanCons (c : Nat) (r : Record) : Scan → Scan
  | .records recs => .records ((c, r) :: recs)
  | .bad pos b => .bad pos b

/-- VALIDATE's first pass from `c` to `e` (43_container.md R132). Each record takes at least 12 bytes,
so `fuel = e - c` is never used up while bytes remain (log 13). -/
def scan (f : Nat → Byte) (e : Nat) : Nat → Nat → Scan
  | 0, _ => .records []
  | fuel + 1, c =>
    if c = e then .records []
    else
      match decodeAt f c e with
      | .ok r next => scanCons c r (scan f e fuel next)
      | .bad b => .bad c b

/-- The descriptor of a record found at `c` (30_encoding.md R88). -/
def descriptor (c : Nat) (r : Record) : List Byte :=
  bytesBe32 (w32 c) ++ bytesBe32 r.len ++ bytesBe32 r.tag ++ bytesBe32 r.stored

/-- VALIDATE's second pass: one 16-byte descriptor per record, from OBUF offset `o` on
(43_container.md R132). -/
def putDescriptors : Nat → List (Nat × Record) → State → State
  | _, [], s => s
  | o, (c, r) :: recs, s => putDescriptors (o + 16) recs (putObuf o (descriptor c r) s)

/-- A failing VALIDATE also writes COUNT = 0 (43_container.md R133). -/
def validateFail (e : Failure) (pos : Word) (s : State) : State :=
  cursorFail e pos { s with count := 0 }

/-- VALIDATE (43_container.md R132). -/
def execValidate (s : State) : Host.Outcome State Fault Refusal :=
  .next (
    if cursorOutOfRange s then validateFail .rangeError s.icur s
    else if signatureMissing s then validateFail .badSignature s.icur s
    else
      let c := s.icur.toNat + 8
      match scan (ibufByte s) s.iend.toNat (s.iend.toNat - c) c with
      | .bad pos b => validateFail (badFailure b) (w32 pos) (diagnose b s)
      | .records recs =>
        if outOutOfRange (16 * recs.length) s then validateFail .rangeError s.icur s
        else
          finish { putDescriptors s.ocur.toNat recs s with
            count := w32 recs.length, icur := s.iend, cerr := false
            ocur := w32 (s.ocur.toNat + 16 * recs.length) })

end Sys2Proof.Machine
end

