-- ==== Sys2Proof/Machine/Control.lean ====
section
/-! DEFINITION. NOP and the illegal command word (44_control.md section 3). -/

namespace Sys2Proof.Machine

/-- NOP: `finish` (44_control.md R145). -/
def execNop (s : State) : Host.Outcome State Fault Refusal := .next (finish s)

/-- A command word that selects no row: `fail IllegalCommand` (44_control.md R146). -/
def runIllegal (s : State) : State := failWith .illegalCommand s

end Sys2Proof.Machine
end

