-- ==== Sys2Proof/Machine/Tag.lean ====
section
/-! DEFINITION. TAGSTR, the strict tag load (40_tag.md section 2). -/

namespace Sys2Proof.Machine

/-- TAGSTR (40_tag.md R108): the length check comes before the range check, and the letter check last
(60_exceptions.md R152). -/
def execTagstr (s : State) : Host.Outcome State Fault Refusal :=
  .next (
    if s.slen.toNat ≠ 4 then failWith .malformedTag s
    else if srcOutOfRange 4 s then failWith .rangeError s
    else
      let t := be32At (ibufByte s) s.src.toNat
      if tagAllLetters t then finish { s with tag := t }
      else failWith .malformedTag s)

end Sys2Proof.Machine
end

