-- ==== Sys2Proof/Machine/Dispatch.lean ====
section
/-! DEFINITION. The dispatch of the eight commands to their meanings (44_control.md R142, R149). -/

namespace Sys2Proof.Machine

/-- The engine's execution of one command, completion included (44_control.md R142, R144). -/
def exec (i : Instr) (s : State) : Host.Outcome State Fault Refusal :=
  match i with
  | .nop => Sys2Proof.Machine.execNop s
  | .tagstr => Sys2Proof.Machine.execTagstr s
  | .crc => Sys2Proof.Machine.execCrc s
  | .encode => Sys2Proof.Machine.execEncode s
  | .decode => Sys2Proof.Machine.execDecode s
  | .sigchk => Sys2Proof.Machine.execSigchk s
  | .sigemit => Sys2Proof.Machine.execSigemit s
  | .validate => Sys2Proof.Machine.execValidate s

end Sys2Proof.Machine
end

