-- ==== Sys2Proof/Machine/Engine.lean ====
section
/-! DEFINITION. The engine's turn and what an input does (44_control.md R142, 60_exceptions.md R160). -/

namespace Sys2Proof.Machine

/-- The engine performs the command LATCH selects; a word that selects none is IllegalCommand
(44_control.md R142, R146). -/
def runLatched (s : State) : Host.Outcome State Fault Refusal :=
  match decode s.latch with
  | .ok i => exec i s
  | .error _ => .next (runIllegal s)

/-- The engine's turn: it has a step exactly when BUSY = 1 (44_control.md R142). -/
def engineTurn (s : State) : Host.Outcome State Fault Refusal :=
  if s.busy then runLatched s else .next s

/-- One input: reset has priority over the host's access and the engine's step (60_exceptions.md
R160, 70_reset_and_hazards.md R170). -/
def applyInput (i : Input) (s : State) : Host.Outcome State Fault Refusal :=
  if i.rst then .next (applyReset s)
  else
    match i.turn with
    | .host a => .next (hostAccess a s)
    | .engine => engineTurn s

/-- The input that gives the engine its turn. -/
def engineInput : Input := { rst := false, turn := .engine }

/-- The command word an instruction's bits stand for (30_encoding.md R75, 20_memory.md R50). -/
def tableWord (nbits w : Nat) : Word := BitVec.ofNat 32 (w % 2 ^ nbits)

end Sys2Proof.Machine
end

