-- ==== Sys2Proof/Machine/Step.lean ====
section
/-! DEFINITION. One step of the block and its surroundings. -/

namespace Sys2Proof.Machine

/-- One step: the oldest input takes effect. Where no input waits, the host is idle and the engine has
its turn, so a command that was accepted completes (44_control.md R142, log 3). -/
def step (s : State) : Host.Outcome State Fault Refusal :=
  match s.inputs with
  | [] => engineTurn s
  | i :: rest => applyInput i { s with inputs := rest }

/-- `s` with the command word `w` just accepted (44_control.md R141) and the engine's turn next, so that
the next step runs that command (log 10). -/
def State.withFetchWord (s : State) (nbits w : Nat) : State :=
  { acceptCmd (tableWord nbits w) s with inputs := engineInput :: s.inputs }

end Sys2Proof.Machine
end

