-- ==== Sys2Proof/Safety.lean ====
section
/-! DEFINITION. The terms claims are stated in: launch state, end of a run and its observation, the
machine's invariant, host access sequences, and the catalogue form of CRC-32. -/

namespace Sys2Proof.Safety

open Sys2Proof.Machine

/-! ### Launch and end of a run (70_reset_and_hazards.md R180, R181) -/

/-- `Idle(s)`: BUSY = 0, OVR = 0, so no command is in flight (70_reset_and_hazards.md R180, log 14). -/
def Idle (s : State) : Prop := s.busy = false ∧ s.ovr = false

/-- The host has performed its last access and BUSY = 0 (70_reset_and_hazards.md R181). -/
def Ended (s : State) : Prop := s.inputs = [] ∧ s.busy = false

/-- The twenty registers in the order of their offsets (10_state.md R30). -/
def allRegs : List Reg :=
  [.id, .caps, .ctrl, .status, .cmd, .tag, .tflags, .src, .slen, .ocur, .icur, .iend, .rlen, .rtag,
    .rcrc, .ccrc, .poff, .count, .errpos, .rtflags]

/-- The observation of an ended run: every register and every OBUF byte (70_reset_and_hazards.md R181). -/
def observation (s : State) : List Word × List Byte :=
  (allRegs.map (fun r => regValue r s), memRead (obufByte s) 0 (obufSize s.cfg))

/-- The host got no bus error and lost no write: a run is safe when every state of it is
(60_exceptions.md R155, 70_reset_and_hazards.md R175). -/
def HostSafe (s : State) : Prop := s.resp ≠ .busError ∧ s.ovr = false

/-! ### The invariant -/

/-- The codes the block produces (60_exceptions.md R150). -/
def producedCode (c : BitVec 4) : Bool :=
  c == 0 || c == 1 || c == 2 || c == 3 || c == 4 || c == 7 || c == 8

/-- STATUS is a legal record: ERR iff ECODE ≠ 0, TFIELD only with Truncated, no reserved code, and
while BUSY = 1 neither DONE nor an error (10_state.md R39, 44_control.md R141, R144). -/
def statusLegal (s : State) : Bool :=
  s.err == (s.ecode != 0) && (s.ecode == 2 || s.tfield == 0) && producedCode s.ecode &&
    (!s.busy || (!s.done && !s.err))

/-- Both buffers are in canonical form and inside their sizes (20_memory.md R52, R53). -/
def buffersLegal (s : State) : Bool :=
  Memory.wf s.ibuf && Memory.within s.ibuf (ibufSize s.cfg) &&
    Memory.wf s.obuf && Memory.within s.obuf (obufSize s.cfg)

/-- What every step keeps: legal parameters (00_scope.md R6), legal buffers, a legal STATUS. -/
def Inv (s : State) : Prop :=
  s.cfg.wellFormed = true ∧ buffersLegal s = true ∧ statusLegal s = true

/-! ### Completion records (44_control.md R144) -/

/-- `s` with STATUS as a successful completion leaves it. -/
def succeeded (s : State) : State :=
  { s with busy := false, done := true, err := false, ecode := 0, tfield := 0 }

/-- `s` with STATUS as a failing completion leaves it. -/
def failed (code : BitVec 4) (field : BitVec 2) (s : State) : State :=
  { s with busy := false, done := true, err := true, ecode := code, tfield := field }

/-- An ASCII letter, as 00_scope.md R13 spells it out. -/
def Letter (b : Byte) : Prop :=
  (0x41 ≤ b.toNat ∧ b.toNat ≤ 0x5A) ∨ (0x61 ≤ b.toNat ∧ b.toNat ≤ 0x7A)

/-! ### Host accesses by block offset (30_encoding.md R90) -/

/-- `WR32 off, v`. -/
def wr32 (off : Nat) (v : Word) (s : State) : State :=
  hostAccess (.write .w32 (s.cfg.base + off) v) s

/-- `WR8 off, b`. -/
def wr8 (off : Nat) (b : Byte) (s : State) : State :=
  hostAccess (.write .w8 (s.cfg.base + off) (b.setWidth 32)) s

/-- `RD32 off`. -/
def rd32 (off : Nat) (s : State) : State := hostAccess (.read .w32 (s.cfg.base + off)) s

/-- `RD8 off`. -/
def rd8 (off : Nat) (s : State) : State := hostAccess (.read .w8 (s.cfg.base + off)) s

/-- The bus took the access (no bus error, 60_exceptions.md R155) and the access left `u`. Which response
a write gets is the model's choice (log 11), so this says nothing of it. -/
def Taken (t u : State) : Prop :=
  ∃ r : Response, r ≠ .busError ∧ r ≠ .notSelected ∧ t = { u with resp := r }

/-- The state an outcome carries; `s` itself where it carries none. -/
def nextOr (s : State) : Host.Outcome State Fault Refusal → State
  | .next t => t
  | .fault _ => s
  | .refused _ => s

/-! ### Records and containers (30_encoding.md R81 to R84) -/

/-- Records parse back to back from `c` on, giving `recs`, and the last one ends at `stop`
(43_container.md R132). -/
def RecordPath (f : Nat → Byte) (e : Nat) : Nat → List (Nat × Record) → Nat → Prop
  | c, [], stop => c = stop
  | c, (pos, r) :: recs, stop =>
    pos = c ∧ ∃ next, decodeAt f c e = .ok r next ∧ RecordPath f e next recs stop

/-- The record of one chunk: length, type, data and the crc over type and data (30_encoding.md R81, R83). -/
def chunkBytes (tag : Word) (data : List Byte) : List Byte :=
  bytesBe32 (BitVec.ofNat 32 data.length) ++ bytesBe32 tag ++ data ++
    bytesBe32 (crc32 (bytesBe32 tag ++ data))

/-- A container: the signature, then the records in order (30_encoding.md R84). -/
def containerBytes (chunks : List (Word × List Byte)) : List Byte :=
  [0x89, 0x50, 0x4E, 0x47, 0x0D, 0x0A, 0x1A, 0x0A] ++ chunks.flatMap (fun ch => chunkBytes ch.1 ch.2)

/-- IBUF holds the byte string `bs` from offset `c` on. -/
def IbufHolds (s : State) (c : Nat) (bs : List Byte) : Prop :=
  ∀ i, i < bs.length → bs[i]? = some (ibufByte s (c + i))

/-- OBUF holds the byte string `bs` from offset `o` on. -/
def ObufHolds (s : State) (o : Nat) (bs : List Byte) : Prop :=
  ∀ i, i < bs.length → bs[i]? = some (obufByte s (o + i))

/-- The host frames one chunk: TAG, SRC, SLEN, then ENCODE (43_container.md R134). -/
def hostEncode (chunk : Word × Word × Word) (s : State) : State :=
  nextOr s (exec .encode { s with tag := chunk.1, src := chunk.2.1, slen := chunk.2.2 })

/-- The host frames a container: SIGEMIT, then one ENCODE per chunk (43_container.md R134). -/
def hostEncodeAll (chunks : List (Word × Word × Word)) (s : State) : State :=
  chunks.foldl (fun t ch => hostEncode ch t) (nextOr s (exec .sigemit s))

/-- The payload a chunk's SRC and SLEN select (10_state.md R43). -/
def sourceOf (s : State) (chunk : Word × Word × Word) : List Byte :=
  memRead (ibufByte s) chunk.2.1.toNat chunk.2.2.toNat

/-- The host's loop "DECODE while CSTATE = MORE", at most `n` times (43_container.md R137). -/
def decodeWhileMore : Nat → State → State
  | 0, s => s
  | n + 1, s => if cstate s = 0 then decodeWhileMore n (nextOr s (exec .decode s)) else s

/-! ### CRC-32 in its catalogue form (41_crc.md R111) -/

/-- One step of the unreflected register: polynomial 0x04C11DB7, most significant bit first. -/
def msbBit (c : Word) : Word := if c.msb then (c <<< 1) ^^^ 0x04C11DB7 else c <<< 1

/-- `n` unreflected steps. -/
def msbShift : Nat → Word → Word
  | 0, c => c
  | n + 1, c => msbShift n (msbBit c)

/-- The unreflected register over a byte string; `refin` reverses each byte's bits as it enters at the
top of the register. -/
def msbBytes : Word → List Byte → Word
  | c, [] => c
  | c, b :: bs => msbBytes (msbShift 8 (c ^^^ (b.reverse.setWidth 32 <<< 24))) bs

/-- CRC-32/ISO-HDLC from its catalogue parameters: init and xorout 0xFFFFFFFF, refin and refout true
(41_crc.md R111). -/
def catalogueCrc (bs : List Byte) : Word := (msbBytes 0xFFFFFFFF bs).reverse ^^^ 0xFFFFFFFF

end Sys2Proof.Safety
end

