-- ==== Sys2Proof/Certificates/Slice0/Obligations.lean ====
section
/-! DEFINITION. The statements for the provers. Each docstring names the rule of spec/ it formalises. -/

open Sys2Proof Sys2Proof.Machine Sys2Proof.Safety

/-! ### Encoding -/

/-- The opcode map of 30_encoding.md R72, its reserved rows included. -/
def Obligations.OpcodeMapDecodes : Prop :=
  decode 0x00000000 = .ok .nop ∧ decode 0x00000001 = .ok .tagstr ∧ decode 0x00000002 = .ok .crc ∧
  decode 0x00000003 = .ok .encode ∧ decode 0x00000004 = .ok .decode ∧
  decode 0x00000005 = .ok .sigchk ∧ decode 0x00000006 = .ok .sigemit ∧
  decode 0x00000007 = .ok .validate ∧
  ∀ op : BitVec 8, 8 ≤ op.toNat → decode (op.setWidth 32) = .error .reservedOp

/-- 30_encoding.md R71: a word selects the row whose match equals it exactly, and no other word
decodes; decoding and encoding agree in both directions on all 2^32 words. -/
def Obligations.DecodeIsExactMatch : Prop :=
  (∀ (w : Word) (i : Instr), decode w = .ok i ↔ w = encode i) ∧
  (∀ w : Word, (∃ why, decode w = .error why) ↔
    (w.extractLsb' 8 24 ≠ 0 ∨ 8 ≤ (w.extractLsb' 0 8).toNat))

/-- 44_control.md R146, 30_encoding.md R73: an illegal word is accepted and completes with
IllegalCommand, writing nothing but STATUS. `StepRunsLatchedCommand` ties the engine's turn to the step. -/
def Obligations.IllegalWordsComplete : Prop :=
  ∀ (w : Word), (w.extractLsb' 8 24 ≠ 0 ∨ 8 ≤ (w.extractLsb' 0 8).toNat) →
    (∀ s : State, s.busy = false →
      Taken (wr32 0x10 w s) { s with
        latch := w, busy := true, done := false, err := false, ecode := 0, tfield := 0 }) ∧
    (∀ s : State, s.busy = true → s.latch = w →
      engineTurn s = .next { s with
        busy := false, done := true, err := true, ecode := 7, tfield := 0 })

/-! ### Steps -/

/-- 44_control.md R142, R146: at the engine's turn, or when no input waits (log 3), a step runs the
instruction LATCH decodes to; where LATCH holds an illegal word, it completes with IllegalCommand and
writes nothing but STATUS. -/
def Obligations.StepRunsLatchedCommand : Prop :=
  (∀ (s : State) (i : Instr) (rest : List Input), s.busy = true → decode s.latch = .ok i →
    (s.inputs = [] → step s = exec i s) ∧
    (s.inputs = engineInput :: rest → step s = exec i { s with inputs := rest })) ∧
  (∀ (s : State) (rest : List Input), s.busy = true →
    (s.latch.extractLsb' 8 24 ≠ 0 ∨ 8 ≤ (s.latch.extractLsb' 0 8).toNat) →
    (s.inputs = [] → step s = .next { s with
      busy := false, done := true, err := true, ecode := 7, tfield := 0 }) ∧
    (s.inputs = engineInput :: rest → step s = .next { s with
      inputs := rest, busy := false, done := true, err := true, ecode := 7, tfield := 0 }))

/-- A command placed by `withFetchWord` is accepted as 44_control.md R141 says and runs at the very
next step (log 10). -/
def Obligations.PlacedCommandRunsNext : Prop :=
  ∀ (s : State) (i : Instr), step (s.withFetchWord 32 (encode i).toNat) =
    exec i { s with
      latch := encode i, busy := true, done := false, err := false, ecode := 0, tfield := 0 }

/-- The inputs' order is the model's way to hold the interleaving of 44_control.md R142 (log 3): a host
input performs its access, and an engine's turn without a command, or no input at all, changes nothing. -/
def Obligations.StepServesInputs : Prop :=
  (∀ (s : State) (a : Access) (rest : List Input), s.inputs = ⟨false, .host a⟩ :: rest →
    step s = .next (hostAccess a { s with inputs := rest })) ∧
  (∀ (s : State) (rest : List Input), s.busy = false → s.inputs = engineInput :: rest →
    step s = .next { s with inputs := rest }) ∧
  (∀ s : State, s.busy = false → s.inputs = [] → step s = .next s)

/-- 44_control.md R142, R149: no step faults, is refused or gets stuck. That the parameters stay (log 2) and
that a step uses up one input (log 3) are the model's own clauses. -/
def Obligations.EveryStepAnswersNext : Prop :=
  ∀ s : State, ∃ t : State, step s = .next t ∧ t.cfg = s.cfg ∧ t.inputs = s.inputs.tail

/-- 10_state.md R36, R37: ID and CAPS read as the spec says, at every time, and no step changes them. -/
def Obligations.IdAndCapsAreFixed : Prop :=
  ∀ s : State, s.cfg.wellFormed = true →
    rd32 0x00 s = { s with resp := .word 0x43524346 } ∧
    (∃ v : Word, rd32 0x04 s = { s with resp := .word v } ∧
      v.extractLsb' 0 5 = BitVec.ofNat 5 s.cfg.ibufLog2 ∧ v.extractLsb' 5 3 = 0 ∧
      v.extractLsb' 8 5 = BitVec.ofNat 5 s.cfg.obufLog2 ∧ v.extractLsb' 13 3 = 0 ∧
      v.extractLsb' 16 8 = 1 ∧ v.extractLsb' 24 8 = 0) ∧
    ∀ t : State, step s = .next t →
      regValue .id t = regValue .id s ∧ regValue .caps t = regValue .caps s

/-- 70_reset_and_hazards.md R170: what an asserted reset input leaves, whatever the turn. Buffer bytes
are free values. -/
def Obligations.ResetOverridesEverything : Prop :=
  ∀ (s : State) (i : Input) (rest : List Input), s.inputs = i :: rest → i.rst = true →
    ∃ t : State, step s = .next t ∧
      regValue .id t = 0x43524346 ∧
      regValue .caps t =
        0x00010000 ||| (BitVec.ofNat 32 s.cfg.obufLog2 <<< 8) ||| BitVec.ofNat 32 s.cfg.ibufLog2 ∧
      regValue .status t = 0x00000400 ∧
      (∀ r ∈ [Reg.ctrl, .tag, .src, .slen, .ocur, .icur, .iend, .rlen, .rtag, .rcrc, .ccrc, .poff,
        .count, .errpos], regValue r t = 0) ∧
      regValue .tflags t = 0x00000070 ∧ regValue .rtflags t = 0x00000070 ∧
      t.cerr = false ∧ t.latch = 0 ∧ irq t = false ∧
      (∀ a, ibufByte t a = Config.ibufResetByte (s.resets + 1) a) ∧
      (∀ a, obufByte t a = Config.obufResetByte (s.resets + 1) a) ∧
      t.cfg = s.cfg ∧ t.inputs = rest

/-- The invariant and `Idle` hold right after reset, for every legal instance
(70_reset_and_hazards.md R180). -/
def Obligations.ResetIsIdleAndLegal : Prop :=
  (∀ c : Config, c.wellFormed = true → Inv (State.resetOf c) ∧ Idle (State.resetOf c)) ∧
  Inv State.reset ∧ Idle State.reset

/-- Every step keeps the invariant: legal parameters, canonical buffers inside their sizes, and a legal
STATUS (10_state.md R39, 60_exceptions.md R150, 44_control.md R144). -/
def Obligations.StepKeepsInvariant : Prop :=
  ∀ s t : State, Inv s → step s = .next t → Inv t

/-- 44_control.md R142: an accepted command completes after the host accesses that wait before it, if
reset does not intervene. The finite list of inputs is the model's weak fairness (log 3). -/
def Obligations.AcceptedCommandsComplete : Prop :=
  ∀ s : State, s.busy = true → (∀ i ∈ s.inputs, i.rst = false) →
    ∃ (k : Nat) (t : State), k ≤ s.inputs.length + 1 ∧ Host.Core.run Sys2Proof.core k s = .next t ∧
      t.busy = false ∧ t.done = true

/-! ### Host accesses -/

/-- 44_control.md R141: acceptance of a command word, and a CMD write while BUSY = 1. -/
def Obligations.CommandAcceptance : Prop :=
  ∀ (s : State) (w : Word),
    (s.busy = false →
      Taken (wr32 0x10 w s) { s with
        latch := w, busy := true, done := false, err := false, ecode := 0, tfield := 0 }) ∧
    (s.busy = true → Taken (wr32 0x10 w s) { s with ovr := true })

/-- 20_memory.md R60: which writes are dropped while BUSY = 1, which are accepted, which are ignored. -/
def Obligations.WritesDuringBusyAreDropped : Prop :=
  (∀ s : State, s.busy = true → s.cfg.wellFormed = true →
    (∀ (off : Nat) (v : Word), off ∈ [0x10, 0x14, 0x1C, 0x20, 0x24, 0x28, 0x2C] →
      Taken (wr32 off v s) { s with ovr := true }) ∧
    (∀ (a : Nat) (b : Byte), a < ibufSize s.cfg →
      Taken (wr8 (0x40000 + a) b s) { s with ovr := true }) ∧
    (∀ (a : Nat) (v : Word), a < ibufSize s.cfg → a % 4 = 0 →
      Taken (wr32 (0x40000 + a) v s) { s with ovr := true }) ∧
    (∀ (a : Nat) (b : Byte), a < obufSize s.cfg →
      Taken (wr8 (0x80000 + a) b s) { s with ovr := true }) ∧
    (∀ (a : Nat) (v : Word), a < obufSize s.cfg → a % 4 = 0 →
      Taken (wr32 (0x80000 + a) v s) { s with ovr := true }) ∧
    (∀ v : Word, Taken (wr32 0x08 v s) { s with ie := v.getLsbD 0 }) ∧
    (∀ v : Word, Taken (wr32 0x0C v s) { s with
      done := s.done && !v.getLsbD 1, ovr := s.ovr && !v.getLsbD 3 })) ∧
  (∀ (s : State) (off : Nat) (v : Word),
    (off ∈ [0x00, 0x04, 0x18, 0x30, 0x34, 0x38, 0x3C, 0x40, 0x44, 0x48, 0x4C] ∨
      (0x50 ≤ off ∧ off ≤ 0xFC ∧ off % 4 = 0)) →
    Taken (wr32 off v s) s)

/-- 20_memory.md R61: which reads are draws while BUSY = 1 and which return stored values. A draw is a
free value (log 5): the statement holds for every value of it. -/
def Obligations.ReadsDuringBusyAreDraws : Prop :=
  ∀ s : State, s.busy = true → s.cfg.wellFormed = true →
    (∀ off ∈ [0x14, 0x18, 0x24, 0x28, 0x30, 0x34, 0x38, 0x3C, 0x40, 0x44, 0x48, 0x4C],
      rd32 off s = { s with resp := .word (Config.draw s.draws), draws := s.draws + 1 }) ∧
    (∃ v : Word, rd32 0x0C s = { s with resp := .word v, draws := s.draws + 1 } ∧
      v.extractLsb' 0 10 = (statusWord s).extractLsb' 0 10 ∧
      v.extractLsb' 10 2 = (Config.draw s.draws).extractLsb' 0 2 ∧ v.extractLsb' 12 20 = 0) ∧
    (∀ p ∈ [(0x00, 0x43524346), (0x04, capsWord s.cfg), (0x08, ctrlWord s), (0x10, 0),
        (0x1C, s.src), (0x20, s.slen), (0x2C, s.iend)],
      rd32 p.1 s = { s with resp := .word p.2 }) ∧
    (∀ a, a < ibufSize s.cfg → rd8 (0x40000 + a) s = { s with resp := .byte (ibufByte s a) }) ∧
    (∀ a, a < ibufSize s.cfg → a % 4 = 0 →
      rd32 (0x40000 + a) s = { s with resp := .word (be32At (ibufByte s) a) }) ∧
    (∀ a, a < obufSize s.cfg → rd8 (0x80000 + a) s =
      { s with resp := .byte ((Config.draw s.draws).setWidth 8), draws := s.draws + 1 }) ∧
    (∀ a, a < obufSize s.cfg → a % 4 = 0 → rd32 (0x80000 + a) s =
      { s with resp := .word (Config.draw s.draws), draws := s.draws + 1 })

/-- 60_exceptions.md R155: exactly these accesses to the block's window get a bus error, and a bus error
changes nothing of the block, STATUS and IRQ among it. -/
def Obligations.MalformedAccessesGetBusErrors : Prop :=
  ∀ (s : State) (a : Access), s.cfg.wellFormed = true →
    let off := accessAddr a - s.cfg.base
    let inWindow := s.cfg.base ≤ accessAddr a ∧ off < 2 ^ 20
    let unmapped := (0x100 ≤ off ∧ off < 0x40000) ∨
      (0x40000 + ibufSize s.cfg ≤ off ∧ off < 0x80000) ∨ 0x80000 + obufSize s.cfg ≤ off
    let malformed := unmapped ∨ accessWidth a = .unsupported ∨
      (off < 0x100 ∧ accessWidth a = .w8) ∨ (accessWidth a = .w32 ∧ off % 4 ≠ 0)
    inWindow → ((hostAccess a s).resp = .busError ↔ malformed) ∧
      (malformed → hostAccess a s = { s with resp := .busError } ∧
        irq (hostAccess a s) = irq s ∧ regValue .status (hostAccess a s) = regValue .status s)

/-- 20_memory.md R56: the 8-bit and 32-bit views of a buffer agree, big-endian, and a write changes no
other byte. A byte nothing has written is a free value (log 6). -/
def Obligations.BufferLanesAreBigEndian : Prop :=
  ∀ s : State, s.busy = false → s.cfg.wellFormed = true →
    (∀ (a : Nat) (v : Word), a < ibufSize s.cfg → a % 4 = 0 → ∃ m : Memory,
      Taken (wr32 (0x40000 + a) v s) { s with ibuf := m } ∧
      (∀ x, ibufByte { s with ibuf := m } x =
        if x = a then v.extractLsb' 24 8 else if x = a + 1 then v.extractLsb' 16 8
        else if x = a + 2 then v.extractLsb' 8 8 else if x = a + 3 then v.extractLsb' 0 8
        else ibufByte s x)) ∧
    (∀ (a : Nat) (b : Byte), a < ibufSize s.cfg → ∃ m : Memory,
      Taken (wr8 (0x40000 + a) b s) { s with ibuf := m } ∧
      (∀ x, ibufByte { s with ibuf := m } x = if x = a then b else ibufByte s x)) ∧
    (∀ a, a < ibufSize s.cfg → rd8 (0x40000 + a) s = { s with resp := .byte (ibufByte s a) }) ∧
    (∀ a, a < ibufSize s.cfg → a % 4 = 0 → rd32 (0x40000 + a) s = { s with
      resp := .word (be32 (ibufByte s a) (ibufByte s (a + 1)) (ibufByte s (a + 2)) (ibufByte s (a + 3))) }) ∧
    (∀ (a : Nat) (v : Word), a < obufSize s.cfg → a % 4 = 0 → ∃ m : Memory,
      Taken (wr32 (0x80000 + a) v s) { s with obuf := m } ∧
      (∀ x, obufByte { s with obuf := m } x =
        if x = a then v.extractLsb' 24 8 else if x = a + 1 then v.extractLsb' 16 8
        else if x = a + 2 then v.extractLsb' 8 8 else if x = a + 3 then v.extractLsb' 0 8
        else obufByte s x)) ∧
    (∀ (a : Nat) (b : Byte), a < obufSize s.cfg → ∃ m : Memory,
      Taken (wr8 (0x80000 + a) b s) { s with obuf := m } ∧
      (∀ x, obufByte { s with obuf := m } x = if x = a then b else obufByte s x)) ∧
    (∀ a, a < obufSize s.cfg → rd8 (0x80000 + a) s = { s with resp := .byte (obufByte s a) }) ∧
    (∀ a, a < obufSize s.cfg → a % 4 = 0 → rd32 (0x80000 + a) s = { s with
      resp := .word (be32 (obufByte s a) (obufByte s (a + 1)) (obufByte s (a + 2)) (obufByte s (a + 3))) })

/-- 20_memory.md R59: a read changes nothing of the block, and while BUSY = 0 a second read returns the
same value. -/
def Obligations.ReadsHaveNoSideEffect : Prop :=
  ∀ (s : State) (w : Width) (addr : Nat), ∃ (r : Response) (d : Nat),
    hostAccess (.read w addr) s = { s with resp := r, draws := d } ∧
    (s.busy = false → d = s.draws ∧
      hostAccess (.read w addr) (hostAccess (.read w addr) s) = hostAccess (.read w addr) s)

/-- 10_state.md R30, R36, R40 to R46: what each register offset reads while BUSY = 0; reserved offsets
read 0 at every time (R58; 20_memory.md R61 names them no draw). -/
def Obligations.RegisterReadsWhenIdle : Prop :=
  (∀ s : State, s.busy = false →
    ∀ p ∈ [(0x00, 0x43524346), (0x04, capsWord s.cfg), (0x08, if s.ie then 1 else 0),
        (0x0C, statusWord s), (0x10, 0), (0x14, s.tag), (0x18, classify s.tag), (0x1C, s.src),
        (0x20, s.slen), (0x24, s.ocur), (0x28, s.icur), (0x2C, s.iend), (0x30, s.rlen),
        (0x34, s.rtag), (0x38, s.rcrc), (0x3C, s.ccrc), (0x40, s.poff), (0x44, s.count),
        (0x48, s.errpos), (0x4C, classify s.rtag)],
      rd32 p.1 s = { s with resp := .word p.2 }) ∧
  ∀ (s : State) (off : Nat), 0x50 ≤ off → off ≤ 0xFC → off % 4 = 0 →
    rd32 off s = { s with resp := .word 0 }

/-- 10_state.md R31, R41, R43, R44, R47: an operand register stores all 32 bits written while BUSY = 0;
a write to ICUR or IEND also clears CERR. -/
def Obligations.OperandWritesWhenIdle : Prop :=
  ∀ (s : State) (v : Word), s.busy = false →
    Taken (wr32 0x14 v s) { s with tag := v } ∧
    Taken (wr32 0x1C v s) { s with src := v } ∧
    Taken (wr32 0x20 v s) { s with slen := v } ∧
    Taken (wr32 0x24 v s) { s with ocur := v } ∧
    Taken (wr32 0x28 v s) { s with icur := v, cerr := false } ∧
    Taken (wr32 0x2C v s) { s with iend := v, cerr := false }

/-- 10_state.md R38: CTRL holds IE alone, is written at every time, and reads 0 in bits 31:1. -/
def Obligations.ControlHoldsInterruptEnable : Prop :=
  ∀ (s : State) (v : Word),
    Taken (wr32 0x08 v s) { s with ie := v.getLsbD 0 } ∧
    rd32 0x08 s = { s with resp := .word (if s.ie then 1 else 0) } ∧
    (State.resetOf s.cfg).ie = false

/-- 10_state.md R39: the layout of STATUS and what a write to it does, at every time. -/
def Obligations.StatusLayoutAndWrite : Prop :=
  ∀ (s : State) (v : Word),
    (statusWord s).getLsbD 0 = s.busy ∧ (statusWord s).getLsbD 1 = s.done ∧
    (statusWord s).getLsbD 2 = s.err ∧ (statusWord s).getLsbD 3 = s.ovr ∧
    (statusWord s).extractLsb' 4 4 = s.ecode ∧ (statusWord s).extractLsb' 8 2 = s.tfield ∧
    (statusWord s).extractLsb' 10 2 = cstate s ∧ (statusWord s).extractLsb' 12 20 = 0 ∧
    Taken (wr32 0x0C v s) { s with
      done := s.done && !v.getLsbD 1, ovr := s.ovr && !v.getLsbD 3 }

/-- 10_state.md R29: the four values of CSTATE, and no command moves ICUR past IEND. -/
def Obligations.CursorStateValues : Prop :=
  (∀ s : State,
    (s.cerr = true → cstate s = 2) ∧
    (s.cerr = false → s.icur.toNat = s.iend.toNat → cstate s = 1) ∧
    (s.cerr = false → s.icur.toNat < s.iend.toNat → cstate s = 0) ∧
    (s.cerr = false → s.icur.toNat > s.iend.toNat → cstate s = 3)) ∧
  (∀ (i : Instr) (s t : State), exec i s = .next t → s.icur.toNat ≤ s.iend.toNat →
    t.icur.toNat ≤ t.iend.toNat)

/-- 60_exceptions.md R157: IRQ follows CTRL.IE and STATUS.DONE through completion, acceptance,
acknowledgement, masking and reset; only the platform's line of the block is driven. -/
def Obligations.InterruptLineFollowsDone : Prop :=
  (∀ (i : Instr) (s t : State), exec i s = .next t → irq t = s.ie) ∧
  (∀ (s : State) (w : Word), s.busy = false → irq (wr32 0x10 w s) = false) ∧
  (∀ (s : State) (v : Word), irq (wr32 0x0C v s) = (irq s && !v.getLsbD 1)) ∧
  (∀ (s : State) (v : Word), irq (wr32 0x08 v s) = (v.getLsbD 0 && s.done)) ∧
  (∀ s : State, irq (applyReset s) = false) ∧
  (∀ (s : State) (n : Nat), irqLineDriven s n = true ↔ n = s.cfg.irqLine ∧ s.ie = true ∧ s.done = true)

/-! ### Tags, byte order -/

/-- 00_scope.md R10: the byte-order helpers. -/
def Obligations.ByteOrderHelpers : Prop :=
  (∀ b0 b1 b2 b3 : Byte, (be32 b0 b1 b2 b3).toNat =
    b0.toNat * 2 ^ 24 + b1.toNat * 2 ^ 16 + b2.toNat * 2 ^ 8 + b3.toNat) ∧
  (∀ v : Word, bytesBe32 v =
    [v.extractLsb' 24 8, v.extractLsb' 16 8, v.extractLsb' 8 8, v.extractLsb' 0 8] ∧
    be32 (v.extractLsb' 24 8) (v.extractLsb' 16 8) (v.extractLsb' 8 8) (v.extractLsb' 0 8) = v)

/-- 40_tag.md R107, which the spec marks derived: two tags are equal iff their packed words are. -/
def Obligations.TagEqualityIsByteWise : Prop :=
  ∀ b0 b1 b2 b3 c0 c1 c2 c3 : Byte,
    be32 b0 b1 b2 b3 = be32 c0 c1 c2 c3 ↔ b0 = c0 ∧ b1 = c1 ∧ b2 = c2 ∧ b3 = c3

/-- 40_tag.md R106: every bit of the classifier, and what TFLAGS and RTFLAGS read. -/
def Obligations.ClassifierBits : Prop :=
  (∀ s : State, regValue .tflags s = classify s.tag ∧ regValue .rtflags s = classify s.rtag) ∧
  ∀ t : Word,
    let b0 : Byte := t.extractLsb' 24 8
    let b1 : Byte := t.extractLsb' 16 8
    let b2 : Byte := t.extractLsb' 8 8
    let b3 : Byte := t.extractLsb' 0 8
    ((classify t).getLsbD 0 = true ↔ Letter b0) ∧ ((classify t).getLsbD 1 = true ↔ Letter b1) ∧
    ((classify t).getLsbD 2 = true ↔ Letter b2) ∧ ((classify t).getLsbD 3 = true ↔ Letter b3) ∧
    ((classify t).getLsbD 4 = true ↔ b0 &&& 0x20 = 0) ∧
    ((classify t).getLsbD 5 = true ↔ b1 &&& 0x20 = 0) ∧
    ((classify t).getLsbD 6 = true ↔ b2 &&& 0x20 = 0) ∧
    ((classify t).getLsbD 7 = true ↔ b3 &&& 0x20 ≠ 0) ∧
    ((classify t).getLsbD 8 = true ↔
      Letter b0 ∧ Letter b1 ∧ Letter b2 ∧ Letter b3 ∧ b2 &&& 0x20 = 0) ∧
    (classify t).extractLsb' 9 23 = 0

/-- 40_tag.md R108: TAGSTR, success and each failure in the rule's order. -/
def Obligations.TagstrLoadsLetters : Prop :=
  decode 0x00000001 = .ok .tagstr ∧ ∀ s : State,
    let byte := fun i => ibufByte s (s.src.toNat + i)
    (s.slen.toNat = 4 → s.src.toNat + 4 ≤ ibufSize s.cfg → (∀ i, i < 4 → Letter (byte i)) →
      exec .tagstr s =
        .next (succeeded { s with tag := be32 (byte 0) (byte 1) (byte 2) (byte 3) })) ∧
    (s.slen.toNat ≠ 4 → exec .tagstr s = .next (failed 1 0 s)) ∧
    (s.slen.toNat = 4 → s.src.toNat + 4 > ibufSize s.cfg → exec .tagstr s = .next (failed 8 0 s)) ∧
    (s.slen.toNat = 4 → s.src.toNat + 4 ≤ ibufSize s.cfg → (∃ i, i < 4 ∧ ¬ Letter (byte i)) →
      exec .tagstr s = .next (failed 1 0 s))

/-- 44_control.md R145: NOP only completes. -/
def Obligations.NopOnlyCompletes : Prop :=
  decode 0x00000000 = .ok .nop ∧ ∀ s : State,
    exec .nop s = .next { s with busy := false, done := true, err := false, ecode := 0, tfield := 0 }

/-! ### CRC-32 -/

/-- 41_crc.md R111, which the spec takes from general knowledge: the function of R110 is CRC-32/ISO-HDLC
by its catalogue parameters, and gives the check value. -/
def Obligations.CrcMatchesCatalogueForm : Prop :=
  (∀ bs : List Byte, crc32 bs = catalogueCrc bs) ∧
  crc32 [0x31, 0x32, 0x33, 0x34, 0x35, 0x36, 0x37, 0x38, 0x39] = 0xCBF43926

/-- 41_crc.md R112 items 1 and 3, which the spec marks derived, for any change of one byte, a single-bit
change among them. -/
def Obligations.CrcDetectsOneByteChanges : Prop :=
  crc32 [] = 0 ∧
  ∀ (front back : List Byte) (b c : Byte), b ≠ c →
    crc32 (front ++ b :: back) ≠ crc32 (front ++ c :: back)

/-- 41_crc.md R113: CRC, success and RangeError. -/
def Obligations.CrcCommandChecksumsSource : Prop :=
  decode 0x00000002 = .ok .crc ∧ ∀ s : State,
    (s.src.toNat + s.slen.toNat ≤ ibufSize s.cfg →
      exec .crc s = .next (succeeded { s with
        ccrc := crc32 (memRead (ibufByte s) s.src.toNat s.slen.toNat) })) ∧
    (s.src.toNat + s.slen.toNat > ibufSize s.cfg → exec .crc s = .next (failed 8 0 s))

/-! ### Chunks -/

/-- 42_chunk.md R120: ENCODE writes the record at OCUR and nothing else of OBUF, or fails with
RangeError and writes nothing. -/
def Obligations.EncodeFramesRecord : Prop :=
  decode 0x00000003 = .ok .encode ∧ ∀ s : State,
    let n := s.slen.toNat
    let o := s.ocur.toNat
    let p := memRead (ibufByte s) s.src.toNat n
    let c := crc32 (bytesBe32 s.tag ++ p)
    (s.src.toNat + n ≤ ibufSize s.cfg → o + 12 + n ≤ obufSize s.cfg → ∃ m : Memory,
      exec .encode s = .next (succeeded { s with
        obuf := m, rlen := s.slen, rtag := s.tag, rcrc := c, ccrc := c
        ocur := BitVec.ofNat 32 (o + 12 + n) }) ∧
      ObufHolds { s with obuf := m } o (bytesBe32 s.slen ++ bytesBe32 s.tag ++ p ++ bytesBe32 c) ∧
      ∀ a, a < o ∨ o + 12 + n ≤ a → obufByte { s with obuf := m } a = obufByte s a) ∧
    ((s.src.toNat + n > ibufSize s.cfg ∨ o + 12 + n > obufSize s.cfg) →
      exec .encode s = .next (failed 8 0 s))

/-- 42_chunk.md R121: the record parser, step by step, and that it reads only the bytes from `c` to `e`. -/
def Obligations.RecordParserSteps : Prop :=
  ∀ (f : Nat → Byte) (c e : Nat), c ≤ e →
    let r := e - c
    let len := be32At f c
    let L := len.toNat
    let tag := be32At f (c + 4)
    let stored := be32At f (c + 8 + L)
    let k := crc32 (memRead f (c + 4) (4 + L))
    let fields : Record := { len := len, tag := tag, stored := stored, computed := k, poff := c + 8 }
    (r < 4 → decodeAt f c e = .bad .shortLength) ∧
    (4 ≤ r → r < 8 → decodeAt f c e = .bad (.shortType len)) ∧
    (8 ≤ r → r < 8 + L → decodeAt f c e = .bad (.shortData len tag)) ∧
    (8 + L ≤ r → r < 12 + L → decodeAt f c e = .bad (.shortCrc len tag)) ∧
    (12 + L ≤ r → k ≠ stored → decodeAt f c e = .bad (.mismatch fields)) ∧
    (12 + L ≤ r → k = stored → decodeAt f c e = .ok fields (c + 12 + L) ∧ c + 12 + L ≤ e) ∧
    ∀ g : Nat → Byte, (∀ a, c ≤ a → a < e → g a = f a) → decodeAt g c e = decodeAt f c e

/-- 42_chunk.md R122, R123: DECODE by the result of the record parser at ICUR. -/
def Obligations.DecodeFollowsParser : Prop :=
  decode 0x00000004 = .ok .decode ∧ ∀ s : State,
    let c := s.icur.toNat
    let e := s.iend.toNat
    let parsed := decodeAt (ibufByte s) c e
    ((e > ibufSize s.cfg ∨ c > e) →
      exec .decode s = .next (failed 8 0 { s with errpos := s.icur, cerr := true })) ∧
    (e ≤ ibufSize s.cfg → c ≤ e →
      (∀ r next, parsed = .ok r next → exec .decode s = .next (succeeded { s with
        rlen := r.len, rtag := r.tag, rcrc := r.stored, ccrc := r.computed
        poff := BitVec.ofNat 32 r.poff, icur := BitVec.ofNat 32 next, cerr := false })) ∧
      (parsed = .bad .shortLength → exec .decode s =
        .next (failed 2 0 { s with errpos := s.icur, cerr := true })) ∧
      (∀ len, parsed = .bad (.shortType len) → exec .decode s =
        .next (failed 2 1 { s with rlen := len, errpos := s.icur, cerr := true })) ∧
      (∀ len tag, parsed = .bad (.shortData len tag) → exec .decode s =
        .next (failed 2 2 { s with rlen := len, rtag := tag, errpos := s.icur, cerr := true })) ∧
      (∀ len tag, parsed = .bad (.shortCrc len tag) → exec .decode s =
        .next (failed 2 3 { s with rlen := len, rtag := tag, errpos := s.icur, cerr := true })) ∧
      (∀ r, parsed = .bad (.mismatch r) → exec .decode s = .next (failed 3 0 { s with
        rlen := r.len, rtag := r.tag, rcrc := r.stored, ccrc := r.computed
        poff := BitVec.ofNat 32 r.poff, errpos := s.icur, cerr := true })))

/-- DECODE, from the bytes alone (42_chunk.md R121, R122; 30_encoding.md R81, R83): a record that ends by
IEND and whose crc field is the checksum of its type and data is accepted. -/
def Obligations.DecodeAcceptsValidRecord : Prop :=
  ∀ s : State,
    let f := ibufByte s
    let c := s.icur.toNat
    let L := (be32At f c).toNat
    s.iend.toNat ≤ ibufSize s.cfg → c + 12 + L ≤ s.iend.toNat →
    be32At f (c + 8 + L) = crc32 (memRead f (c + 4) (4 + L)) →
    exec .decode s = .next (succeeded { s with
      rlen := be32At f c, rtag := be32At f (c + 4), rcrc := be32At f (c + 8 + L)
      ccrc := be32At f (c + 8 + L), poff := BitVec.ofNat 32 (c + 8)
      icur := BitVec.ofNat 32 (c + 12 + L), cerr := false })

/-- The round trip of 42_chunk.md R124, which the spec marks derived: what ENCODE writes, copied into
IBUF, DECODE reads back. -/
def Obligations.EncodeDecodeRoundTrip : Prop :=
  ∀ (s t u : State) (c : Nat), exec .encode s = .next t → t.err = false →
    (∀ i, i < 12 + s.slen.toNat → ibufByte u (c + i) = obufByte t (s.ocur.toNat + i)) →
    u.icur.toNat = c → u.iend.toNat = c + 12 + s.slen.toNat → u.iend.toNat ≤ ibufSize u.cfg →
    exec .decode u = .next (succeeded { u with
      rlen := s.slen, rtag := s.tag, rcrc := t.rcrc, ccrc := t.rcrc
      poff := BitVec.ofNat 32 (c + 8), icur := u.iend, cerr := false }) ∧
    t.ccrc = t.rcrc ∧
    ∀ i, i < s.slen.toNat → ibufByte u (c + 8 + i) = ibufByte s (s.src.toNat + i)

/-- 42_chunk.md R125, which the spec marks derived: DECODE succeeds only on a record whose crc field is
right, and after any change of one byte of its type, data or crc it fails with ChecksumMismatch. -/
def Obligations.DecodeRejectsCorruption : Prop :=
  ∀ u v : State, exec .decode u = .next v → v.err = false →
    (let f := ibufByte u
     let c := u.icur.toNat
     let L := (be32At f c).toNat
     v.icur.toNat = c + 12 + L ∧ be32At f (c + 8 + L) = crc32 (memRead f (c + 4) (4 + L))) ∧
    ∀ (x : State) (a : Nat), x.cfg = u.cfg → x.icur = u.icur → x.iend = u.iend →
      u.icur.toNat + 4 ≤ a → a < v.icur.toNat → ibufByte x a ≠ ibufByte u a →
      (∀ b, b ≠ a → ibufByte x b = ibufByte u b) →
      ∃ y : State, exec .decode x = .next y ∧ y.ecode = 3 ∧ y.err = true ∧ y.icur = x.icur

/-! ### Containers -/

/-- 43_container.md R130: SIGCHK, success and each failure. -/
def Obligations.SigchkChecksSignature : Prop :=
  decode 0x00000005 = .ok .sigchk ∧ ∀ s : State,
    let sig : List Byte := [0x89, 0x50, 0x4E, 0x47, 0x0D, 0x0A, 0x1A, 0x0A]
    let c := s.icur.toNat
    let e := s.iend.toNat
    (e ≤ ibufSize s.cfg → c + 8 ≤ e → IbufHolds s c sig →
      exec .sigchk s = .next (succeeded { s with icur := BitVec.ofNat 32 (c + 8), cerr := false })) ∧
    ((e > ibufSize s.cfg ∨ c > e) →
      exec .sigchk s = .next (failed 8 0 { s with errpos := s.icur, cerr := true })) ∧
    (e ≤ ibufSize s.cfg → c ≤ e → (e - c < 8 ∨ ¬ IbufHolds s c sig) →
      exec .sigchk s = .next (failed 4 0 { s with errpos := s.icur, cerr := true }))

/-- 43_container.md R131: SIGEMIT writes the signature at OCUR and nothing else of OBUF, or fails with
RangeError and writes nothing. -/
def Obligations.SigemitWritesSignature : Prop :=
  decode 0x00000006 = .ok .sigemit ∧ ∀ s : State,
    let o := s.ocur.toNat
    (o + 8 ≤ obufSize s.cfg → ∃ m : Memory,
      exec .sigemit s =
        .next (succeeded { s with obuf := m, ocur := BitVec.ofNat 32 (o + 8) }) ∧
      ObufHolds { s with obuf := m } o [0x89, 0x50, 0x4E, 0x47, 0x0D, 0x0A, 0x1A, 0x0A] ∧
      ∀ a, a < o ∨ o + 8 ≤ a → obufByte { s with obuf := m } a = obufByte s a) ∧
    (o + 8 > obufSize s.cfg → exec .sigemit s = .next (failed 8 0 s))

/-- 43_container.md R132, success; 30_encoding.md R88: VALIDATE writes one descriptor per record of the
container at OCUR and nothing else of OBUF. -/
def Obligations.ValidateDescribesRecords : Prop :=
  decode 0x00000007 = .ok .validate ∧ ∀ (s : State) (recs : List (Nat × Record)),
    let c := s.icur.toNat
    let e := s.iend.toNat
    let o := s.ocur.toNat
    e ≤ ibufSize s.cfg → c + 8 ≤ e →
    IbufHolds s c [0x89, 0x50, 0x4E, 0x47, 0x0D, 0x0A, 0x1A, 0x0A] →
    RecordPath (ibufByte s) e (c + 8) recs e → o + 16 * recs.length ≤ obufSize s.cfg →
    ∃ m : Memory,
      exec .validate s = .next (succeeded { s with
        obuf := m, count := BitVec.ofNat 32 recs.length, icur := s.iend
        ocur := BitVec.ofNat 32 (o + 16 * recs.length), cerr := false }) ∧
      ObufHolds { s with obuf := m } o (recs.flatMap (fun p =>
        bytesBe32 (BitVec.ofNat 32 p.1) ++ bytesBe32 p.2.len ++ bytesBe32 p.2.tag ++
          bytesBe32 p.2.stored)) ∧
      ∀ a, a < o ∨ o + 16 * recs.length ≤ a → obufByte { s with obuf := m } a = obufByte s a

/-- 43_container.md R132, the failures in their order, with the diagnostics of 42_chunk.md R123. -/
def Obligations.ValidateReportsFirstFailure : Prop :=
  ∀ s : State,
    let sig : List Byte := [0x89, 0x50, 0x4E, 0x47, 0x0D, 0x0A, 0x1A, 0x0A]
    let f := ibufByte s
    let c := s.icur.toNat
    let e := s.iend.toNat
    ((e > ibufSize s.cfg ∨ c > e) → exec .validate s =
      .next (failed 8 0 { s with errpos := s.icur, count := 0, cerr := true })) ∧
    (e ≤ ibufSize s.cfg → c ≤ e → (e - c < 8 ∨ ¬ IbufHolds s c sig) → exec .validate s =
      .next (failed 4 0 { s with errpos := s.icur, count := 0, cerr := true })) ∧
    (∀ (recs : List (Nat × Record)) (pos : Nat), e ≤ ibufSize s.cfg → c + 8 ≤ e → IbufHolds s c sig →
      RecordPath f e (c + 8) recs pos → pos ≠ e →
      (decodeAt f pos e = .bad .shortLength → exec .validate s = .next (failed 2 0 { s with
        errpos := BitVec.ofNat 32 pos, count := 0, cerr := true })) ∧
      (∀ len, decodeAt f pos e = .bad (.shortType len) → exec .validate s = .next (failed 2 1 { s with
        rlen := len, errpos := BitVec.ofNat 32 pos, count := 0, cerr := true })) ∧
      (∀ len tag, decodeAt f pos e = .bad (.shortData len tag) →
        exec .validate s = .next (failed 2 2 { s with
          rlen := len, rtag := tag, errpos := BitVec.ofNat 32 pos, count := 0, cerr := true })) ∧
      (∀ len tag, decodeAt f pos e = .bad (.shortCrc len tag) →
        exec .validate s = .next (failed 2 3 { s with
          rlen := len, rtag := tag, errpos := BitVec.ofNat 32 pos, count := 0, cerr := true })) ∧
      (∀ r, decodeAt f pos e = .bad (.mismatch r) → exec .validate s = .next (failed 3 0 { s with
        rlen := r.len, rtag := r.tag, rcrc := r.stored, ccrc := r.computed
        poff := BitVec.ofNat 32 r.poff
        errpos := BitVec.ofNat 32 pos, count := 0, cerr := true }))) ∧
    (∀ recs : List (Nat × Record), e ≤ ibufSize s.cfg → c + 8 ≤ e → IbufHolds s c sig →
      RecordPath f e (c + 8) recs e → s.ocur.toNat + 16 * recs.length > obufSize s.cfg →
      exec .validate s = .next (failed 8 0 { s with errpos := s.icur, count := 0, cerr := true }))

/-- 43_container.md R133: a failing VALIDATE changes nothing but STATUS, COUNT, ERRPOS, CERR and, for a
record failure, the diagnostic registers, so it writes no byte of OBUF and moves no cursor; a successful
one writes exactly the OBUF bytes of the descriptor table. -/
def Obligations.ValidateIsAllOrNothing : Prop :=
  ∀ s t : State, s.cfg.wellFormed = true → exec .validate s = .next t →
    (t.err = true → t.count = 0 ∧
      t = { s with
        busy := t.busy, done := t.done, err := t.err, ecode := t.ecode, tfield := t.tfield
        count := t.count, errpos := t.errpos, cerr := t.cerr
        rlen := t.rlen, rtag := t.rtag, rcrc := t.rcrc, ccrc := t.ccrc, poff := t.poff } ∧
      (t.ecode ≠ 2 → t.ecode ≠ 3 → t.rlen = s.rlen ∧ t.rtag = s.rtag ∧ t.rcrc = s.rcrc ∧
        t.ccrc = s.ccrc ∧ t.poff = s.poff)) ∧
    (t.err = false → t.ocur.toNat = s.ocur.toNat + 16 * t.count.toNat ∧
      (∀ a, a < s.ocur.toNat ∨ t.ocur.toNat ≤ a → obufByte t a = obufByte s a) ∧
      (∀ a, s.ocur.toNat ≤ a → a < t.ocur.toNat → ∃ b, Memory.byteAt t.obuf a = some b))

/-- 43_container.md R132: the scan of the records always ends, at the end of the input or at a record
that does not parse, after at most a twelfth as many records as bytes. -/
def Obligations.RecordScanEnds : Prop :=
  ∀ (f : Nat → Byte) (c e : Nat), c ≤ e → ∃ (recs : List (Nat × Record)) (pos : Nat),
    RecordPath f e c recs pos ∧ pos ≤ e ∧ 12 * recs.length ≤ pos - c ∧
    (pos = e ∨ ∃ b, decodeAt f pos e = .bad b)

/-- 43_container.md R135, which the spec marks derived, with the premise that R132's capacity check needs:
OCUR lies in OBUF (log 15). -/
def Obligations.EmptyContainerValidates : Prop :=
  ∀ s : State, IbufHolds s s.icur.toNat [0x89, 0x50, 0x4E, 0x47, 0x0D, 0x0A, 0x1A, 0x0A] →
    s.iend.toNat = s.icur.toNat + 8 → s.iend.toNat ≤ ibufSize s.cfg →
    s.ocur.toNat ≤ obufSize s.cfg →
    exec .validate s = .next (succeeded { s with count := 0, icur := s.iend, cerr := false })

/-- 43_container.md R134, which the spec marks derived: SIGEMIT and then one ENCODE per chunk write the
signature and the records in order. -/
def Obligations.ContainerEncodingIsConcatenation : Prop :=
  ∀ (s : State) (chunks : List (Word × Word × Word)), s.cfg.wellFormed = true →
    (∀ ch ∈ chunks, ch.2.1.toNat + ch.2.2.toNat ≤ ibufSize s.cfg) →
    let bytes := containerBytes (chunks.map (fun ch => (ch.1, sourceOf s ch)))
    s.ocur.toNat + bytes.length ≤ obufSize s.cfg →
    let t := hostEncodeAll chunks s
    t.err = false ∧ t.ocur.toNat = s.ocur.toNat + bytes.length ∧
    ObufHolds t s.ocur.toNat bytes ∧ t.ibuf = s.ibuf ∧
    ∀ a, a < s.ocur.toNat ∨ t.ocur.toNat ≤ a → obufByte t a = obufByte s a

/-- 43_container.md R136, which the spec marks derived: the bytes of a container validate to its chunks,
in order. -/
def Obligations.ContainerRoundTrip : Prop :=
  ∀ (s : State) (chunks : List (Word × List Byte)),
    IbufHolds s s.icur.toNat (containerBytes chunks) →
    s.iend.toNat = s.icur.toNat + (containerBytes chunks).length →
    s.iend.toNat ≤ ibufSize s.cfg → s.ocur.toNat + 16 * chunks.length ≤ obufSize s.cfg →
    ∃ t : State, exec .validate s = .next t ∧ t.err = false ∧
      t.count = BitVec.ofNat 32 chunks.length ∧ t.icur = s.iend ∧
      ∀ (i : Nat) (ch : Word × List Byte), chunks[i]? = some ch →
        let d := s.ocur.toNat + 16 * i
        let roff := (be32At (obufByte t) d).toNat
        be32At (obufByte t) (d + 4) = BitVec.ofNat 32 ch.2.length ∧
        be32At (obufByte t) (d + 8) = ch.1 ∧
        be32At (obufByte t) (d + 12) = crc32 (bytesBe32 ch.1 ++ ch.2) ∧
        ∀ j, j < ch.2.length → ch.2[j]? = some (ibufByte t (roff + 8 + j))

/-- 43_container.md R137, which the spec marks derived: SIGCHK and then DECODE while CSTATE = MORE ends
EXHAUSTED exactly when VALIDATE succeeds, the capacity of the descriptor table aside, and otherwise with
VALIDATE's ECODE and ERRPOS. -/
def Obligations.StepwiseWalkAgreesWithValidate : Prop :=
  ∀ (s v : State) (n : Nat), s.iend.toNat ≤ n → exec .validate s = .next v →
    let u := decodeWhileMore n (nextOr s (exec .sigchk s))
    (cstate u = 1 ∨ cstate u = 2) ∧
    (v.err = false → cstate u = 1) ∧
    (cstate u = 1 → v.err = false ∨ (v.ecode = 8 ∧ v.errpos = s.icur)) ∧
    (cstate u = 2 → v.err = true ∧ v.ecode = u.ecode ∧ v.tfield = u.tfield ∧ v.errpos = u.errpos)

/-! ### The whole command set -/

/-- The table of 10_state.md R48, which the spec marks derived: which registers each command writes, on
success and on failure. That the parameters and the input list stay (`cfg`, log 2; `inputs`, log 3), and the
model's other own fields with them (`resp`, `draws`, `resets`), are the model's own clauses. -/
def Obligations.CommandsWriteOnlyTheirRegisters : Prop :=
  ∀ (i : Instr) (s t : State), exec i s = .next t →
    (t.cfg = s.cfg ∧ t.ie = s.ie ∧ t.ovr = s.ovr ∧ t.src = s.src ∧ t.slen = s.slen ∧
      t.iend = s.iend ∧ t.latch = s.latch ∧ t.ibuf = s.ibuf ∧ t.inputs = s.inputs ∧
      t.resp = s.resp ∧ t.draws = s.draws ∧ t.resets = s.resets) ∧
    (i ≠ .tagstr → t.tag = s.tag) ∧
    (i ∉ [Instr.encode, .sigemit, .validate] → t.ocur = s.ocur ∧ t.obuf = s.obuf) ∧
    (i ∉ [Instr.decode, .sigchk, .validate] →
      t.icur = s.icur ∧ t.errpos = s.errpos ∧ t.cerr = s.cerr) ∧
    (i ∉ [Instr.encode, .decode, .validate] → t.rlen = s.rlen ∧ t.rtag = s.rtag ∧ t.rcrc = s.rcrc) ∧
    (i ∉ [Instr.crc, .encode, .decode, .validate] → t.ccrc = s.ccrc) ∧
    (i ∉ [Instr.decode, .validate] → t.poff = s.poff) ∧
    (i ≠ .validate → t.count = s.count) ∧
    (t.err = false → t.errpos = s.errpos) ∧
    (t.err = true → t.tag = s.tag ∧ t.ocur = s.ocur ∧ t.icur = s.icur ∧ t.obuf = s.obuf) ∧
    (t.err = true → i ∉ [Instr.decode, .validate] →
      t.rlen = s.rlen ∧ t.rtag = s.rtag ∧ t.rcrc = s.rcrc ∧ t.ccrc = s.ccrc) ∧
    (t.err = false → i = .validate → t.rlen = s.rlen ∧ t.rtag = s.rtag ∧ t.rcrc = s.rcrc ∧
      t.ccrc = s.ccrc ∧ t.poff = s.poff)

/-- 60_exceptions.md R150, 44_control.md R144: every command completes, with one of the codes R150 lets it
raise. -/
def Obligations.CommandsRaiseOnlyTheirFailures : Prop :=
  ∀ (i : Instr) (s : State), ∃ t : State, exec i s = .next t ∧ t.busy = false ∧ t.done = true ∧
    (t.err = true ↔ t.ecode ≠ 0) ∧ (t.ecode ≠ 2 → t.tfield = 0) ∧
    t.ecode ∈ (match i with
      | .nop => [0]
      | .tagstr => [0, 1, 8]
      | .crc => [0, 8]
      | .encode => [0, 8]
      | .decode => [0, 2, 3, 8]
      | .sigchk => [0, 4, 8]
      | .sigemit => [0, 8]
      | .validate => ([0, 2, 3, 4, 8] : List (BitVec 4)))

/-- 10_state.md R47: CERR is set by a failing DECODE, SIGCHK or VALIDATE, cleared by a successful one,
by an accepted write to ICUR or IEND and by reset, and by nothing else. -/
def Obligations.CursorErrorFlagCauses : Prop :=
  (∀ (i : Instr) (s t : State), exec i s = .next t →
    t.cerr = if i = .decode ∨ i = .sigchk ∨ i = .validate then t.err else s.cerr) ∧
  (∀ (a : Access) (s : State), (hostAccess a s).cerr = s.cerr ∨
    ((hostAccess a s).cerr = false ∧ s.busy = false ∧ ∃ v : Word,
      a = .write .w32 (s.cfg.base + 0x28) v ∨ a = .write .w32 (s.cfg.base + 0x2C) v)) ∧
  (∀ s : State, (applyReset s).cerr = false)

/-- 60_exceptions.md R153: a failed command issued again on the state it left fails in the same way and
changes nothing. -/
def Obligations.FailedCommandRepeats : Prop :=
  ∀ (i : Instr) (s t : State), exec i s = .next t → t.err = true → exec i t = .next t

/-- 10_state.md R33, and 44_control.md R148, which the spec marks derived: a command never moves a
cursor backwards or past its buffer. -/
def Obligations.CursorsNeverWrap : Prop :=
  ∀ (i : Instr) (s t : State), s.cfg.wellFormed = true → exec i s = .next t →
    s.ocur.toNat ≤ t.ocur.toNat ∧ (t.ocur ≠ s.ocur → t.ocur.toNat ≤ obufSize s.cfg) ∧
    s.icur.toNat ≤ t.icur.toNat ∧
    (t.icur ≠ s.icur → t.icur.toNat ≤ s.iend.toNat ∧ s.iend.toNat ≤ ibufSize s.cfg)

/-- 20_memory.md R60, and R64, which the spec marks derived: no host access made while a command runs
changes what the command does; only what the access itself may change (IE, OVR, the response, the draw
counter) differs. -/
def Obligations.BusyAccessesDoNotDisturb : Prop :=
  ∀ (i : Instr) (a : Access) (s t : State), s.busy = true → exec i s = .next t →
    exec i (hostAccess a s) = .next { t with
      ie := (hostAccess a s).ie, ovr := (hostAccess a s).ovr
      resp := (hostAccess a s).resp, draws := (hostAccess a s).draws }

/-- 43_container.md R132, 42_chunk.md R121: the cursor commands read no IBUF byte at or after IEND. -/
def Obligations.BytesBeyondIendAreNotRead : Prop :=
  ∀ (i : Instr) (s t : State) (m : Memory), i ∈ [Instr.decode, .sigchk, .validate] →
    (∀ a, a < s.iend.toNat → ibufByte { s with ibuf := m } a = ibufByte s a) →
    exec i s = .next t → exec i { s with ibuf := m } = .next { t with ibuf := m }

/-- 20_memory.md R69: what can change a buffer byte. -/
def Obligations.WhoWritesTheBuffers : Prop :=
  ∀ (s t : State) (a : Nat), s.cfg.wellFormed = true → step s = .next t →
    let hostWrites := fun window => ∃ (rest : List Input) (w : Width) (addr : Nat) (v : Word),
      s.inputs = ⟨false, .host (.write w addr v)⟩ :: rest ∧ s.busy = false ∧
      addr ≤ s.cfg.base + window + a ∧
      s.cfg.base + window + a < addr + (if w = .w8 then 1 else if w = .w32 then 4 else 0)
    let reset := ∃ (i : Input) (rest : List Input), s.inputs = i :: rest ∧ i.rst = true
    (ibufByte t a ≠ ibufByte s a → reset ∨ hostWrites 0x40000) ∧
    (obufByte t a ≠ obufByte s a → reset ∨ hostWrites 0x80000 ∨
      (s.busy = true ∧ t.err = false ∧ s.ocur.toNat ≤ a ∧ a < t.ocur.toNat ∧
        ∃ i ∈ [Instr.encode, .sigemit, .validate], decode s.latch = .ok i))
end

