-- ==== Sys2Proof/Laws/Memory.lean ====
section
/-! SUPPORT. The laws of a buffer: read after write, and that every write keeps the canonical form. -/

namespace Sys2Proof.Machine

/-- Read after write, at the written address and at every other one. -/
@[simp] theorem byteAt_store (m : Memory) (a : Nat) (b : Byte) (x : Nat) :
    Memory.byteAt (Memory.store m a b) x = if x = a then some b else Memory.byteAt m x := by
  induction m with
  | nil => simp [Memory.store, Memory.byteAt, eq_comm]
  | cons c m ih =>
    obtain ⟨k, v⟩ := c
    simp only [Memory.store]
    split
    · simp only [Memory.byteAt]
      grind
    · split
      · subst k
        simp only [Memory.byteAt]
        grind
      · simp only [Memory.byteAt, ih]
        grind

/-- Read after a byte-string write. -/
theorem byteAt_storeBytes (m : Memory) (a : Nat) (bs : List Byte) (x : Nat) :
    Memory.byteAt (Memory.storeBytes m a bs) x =
      if a ≤ x ∧ x < a + bs.length then bs[x - a]? else Memory.byteAt m x := by
  induction bs generalizing m a with
  | nil => simp only [Memory.storeBytes, List.length_nil]; split <;> [omega; rfl]
  | cons b bs ih =>
    simp only [Memory.storeBytes, ih, byteAt_store, List.length_cons]
    by_cases hx : x = a
    · subst x
      simp
    · by_cases hr : a + 1 ≤ x ∧ x < a + 1 + bs.length
      · have : x - a = (x - (a + 1)) + 1 := by omega
        rw [if_pos hr, if_pos (by omega), this, List.getElem?_cons_succ]
      · rw [if_neg hr, if_neg hx, if_neg (by omega)]

/-- The canonical form, one cell at a time. -/
theorem wf_cons (c : Host.Cell) (m : Memory) :
    Memory.wf (c :: m) = true ↔ (∀ d ∈ m, c.1 < d.1) ∧ Memory.wf m = true := by
  induction m generalizing c with
  | nil => simp [Memory.wf]
  | cons d m ih =>
    have hd := ih d
    simp only [Memory.wf, Bool.and_eq_true, decide_eq_true_eq, List.mem_cons, forall_eq_or_imp]
    constructor
    · rintro ⟨h, hw⟩
      exact ⟨⟨h, fun x hx => h.trans ((hd.1 hw).1 x hx)⟩, hw⟩
    · rintro ⟨⟨h, -⟩, hw⟩
      exact ⟨h, hw⟩

/-- A stored cell is the new one or an old one. -/
theorem mem_store {m : Memory} {a : Nat} {b : Byte} {c : Host.Cell}
    (h : c ∈ Memory.store m a b) : c = (a, b) ∨ c ∈ m := by
  induction m with
  | nil => simpa [Memory.store] using h
  | cons d m ih =>
    simp only [Memory.store] at h
    split at h
    · simpa using h
    · split at h
      · rcases List.mem_cons.1 h with h | h
        · exact .inl h
        · exact .inr (List.mem_cons_of_mem _ h)
      · rcases List.mem_cons.1 h with h | h
        · exact .inr (h ▸ List.mem_cons_self)
        · exact (ih h).imp_right (List.mem_cons_of_mem _)

/-- Writing one byte keeps the canonical form. -/
theorem store_wf {m : Memory} (h : Memory.wf m = true) (a : Nat) (b : Byte) :
    Memory.wf (Memory.store m a b) = true := by
  induction m with
  | nil => rfl
  | cons c m ih =>
    obtain ⟨k, v⟩ := c
    have hc := (wf_cons (k, v) m).1 h
    simp only [Memory.store]
    split
    · next hlt =>
      refine (wf_cons _ _).2 ⟨?_, h⟩
      intro d hd
      rcases List.mem_cons.1 hd with rfl | hd
      · exact hlt
      · exact hlt.trans (hc.1 d hd)
    · split
      · next hk =>
        subst hk
        exact (wf_cons _ _).2 hc
      · next h1 h2 =>
        refine (wf_cons _ _).2 ⟨?_, ih hc.2⟩
        intro d hd
        rcases mem_store hd with rfl | hd
        · show k < a
          omega
        · exact hc.1 d hd

/-- Writing a byte string keeps the canonical form. -/
theorem storeBytes_wf {m : Memory} (h : Memory.wf m = true) (a : Nat) (bs : List Byte) :
    Memory.wf (Memory.storeBytes m a bs) = true := by
  induction bs generalizing m a with
  | nil => exact h
  | cons b bs ih => exact ih (store_wf h a b) (a + 1)

/-- Writing one byte inside the size keeps every cell inside it. -/
theorem store_within {m : Memory} {n : Nat} (h : Memory.within m n = true) {a : Nat} (ha : a < n)
    (b : Byte) : Memory.within (Memory.store m a b) n = true := by
  simp only [Memory.within, List.all_eq_true, decide_eq_true_eq] at h ⊢
  intro c hc
  rcases mem_store hc with rfl | hc
  · exact ha
  · exact h c hc

/-- Writing a byte string inside the size keeps every cell inside it. -/
theorem storeBytes_within {m : Memory} {n : Nat} (h : Memory.within m n = true) {a : Nat}
    {bs : List Byte} (ha : a + bs.length ≤ n) :
    Memory.within (Memory.storeBytes m a bs) n = true := by
  induction bs generalizing m a with
  | nil => exact h
  | cons b bs ih =>
    simp only [List.length_cons] at ha
    exact ih (store_within h (by omega) b) (by omega)

/-- Reset's buffers are in canonical form. -/
theorem reset_buffers_wf (c : Config) :
    Memory.wf (State.resetOf c).ibuf = true ∧ Memory.wf (State.resetOf c).obuf = true := ⟨rfl, rfl⟩

/-- An OBUF byte after a write to OBUF. -/
theorem obufByte_putObuf (a : Nat) (bs : List Byte) (s : State) (x : Nat) :
    obufByte (putObuf a bs s) x =
      if a ≤ x ∧ x < a + bs.length then bs.getD (x - a) 0 else obufByte s x := by
  simp only [obufByte, putObuf, byteAt_storeBytes]
  split
  · next h =>
    have : x - a < bs.length := by omega
    simp [this]
  · rfl

/-- An IBUF byte after a write to IBUF. -/
theorem ibufByte_putIbuf (a : Nat) (bs : List Byte) (s : State) (x : Nat) :
    ibufByte (putIbuf a bs s) x =
      if a ≤ x ∧ x < a + bs.length then bs.getD (x - a) 0 else ibufByte s x := by
  simp only [ibufByte, putIbuf, byteAt_storeBytes]
  split
  · next h =>
    have : x - a < bs.length := by omega
    simp [this]
  · rfl

/-- Writing OBUF leaves IBUF as it reads. -/
@[simp] theorem ibufByte_putObuf (a : Nat) (bs : List Byte) (s : State) :
    ibufByte (putObuf a bs s) = ibufByte s := rfl

/-- Writing IBUF leaves OBUF as it reads. -/
@[simp] theorem obufByte_putIbuf (a : Nat) (bs : List Byte) (s : State) :
    obufByte (putIbuf a bs s) = obufByte s := rfl

end Sys2Proof.Machine
end

