-- ==== Sys2Proof/Laws/State.lean ====
section
/-! SUPPORT. One lemma per field for each named update of the state. -/

namespace Sys2Proof.Machine

/-! ### complete -/

@[simp] theorem complete_cfg (c : BitVec 4) (k : BitVec 2) (s : State) : (complete c k s).cfg = s.cfg := rfl
@[simp] theorem complete_ie (c : BitVec 4) (k : BitVec 2) (s : State) : (complete c k s).ie = s.ie := rfl
@[simp] theorem complete_busy (c : BitVec 4) (k : BitVec 2) (s : State) : (complete c k s).busy = false := rfl
@[simp] theorem complete_done (c : BitVec 4) (k : BitVec 2) (s : State) : (complete c k s).done = true := rfl
@[simp] theorem complete_err (c : BitVec 4) (k : BitVec 2) (s : State) : (complete c k s).err = (c != 0) := rfl
@[simp] theorem complete_ovr (c : BitVec 4) (k : BitVec 2) (s : State) : (complete c k s).ovr = s.ovr := rfl
@[simp] theorem complete_ecode (c : BitVec 4) (k : BitVec 2) (s : State) : (complete c k s).ecode = c := rfl
@[simp] theorem complete_tfield (c : BitVec 4) (k : BitVec 2) (s : State) : (complete c k s).tfield = (if c = 2 then k else 0) := rfl
@[simp] theorem complete_tag (c : BitVec 4) (k : BitVec 2) (s : State) : (complete c k s).tag = s.tag := rfl
@[simp] theorem complete_src (c : BitVec 4) (k : BitVec 2) (s : State) : (complete c k s).src = s.src := rfl
@[simp] theorem complete_slen (c : BitVec 4) (k : BitVec 2) (s : State) : (complete c k s).slen = s.slen := rfl
@[simp] theorem complete_ocur (c : BitVec 4) (k : BitVec 2) (s : State) : (complete c k s).ocur = s.ocur := rfl
@[simp] theorem complete_icur (c : BitVec 4) (k : BitVec 2) (s : State) : (complete c k s).icur = s.icur := rfl
@[simp] theorem complete_iend (c : BitVec 4) (k : BitVec 2) (s : State) : (complete c k s).iend = s.iend := rfl
@[simp] theorem complete_rlen (c : BitVec 4) (k : BitVec 2) (s : State) : (complete c k s).rlen = s.rlen := rfl
@[simp] theorem complete_rtag (c : BitVec 4) (k : BitVec 2) (s : State) : (complete c k s).rtag = s.rtag := rfl
@[simp] theorem complete_rcrc (c : BitVec 4) (k : BitVec 2) (s : State) : (complete c k s).rcrc = s.rcrc := rfl
@[simp] theorem complete_ccrc (c : BitVec 4) (k : BitVec 2) (s : State) : (complete c k s).ccrc = s.ccrc := rfl
@[simp] theorem complete_poff (c : BitVec 4) (k : BitVec 2) (s : State) : (complete c k s).poff = s.poff := rfl
@[simp] theorem complete_count (c : BitVec 4) (k : BitVec 2) (s : State) : (complete c k s).count = s.count := rfl
@[simp] theorem complete_errpos (c : BitVec 4) (k : BitVec 2) (s : State) : (complete c k s).errpos = s.errpos := rfl
@[simp] theorem complete_cerr (c : BitVec 4) (k : BitVec 2) (s : State) : (complete c k s).cerr = s.cerr := rfl
@[simp] theorem complete_latch (c : BitVec 4) (k : BitVec 2) (s : State) : (complete c k s).latch = s.latch := rfl
@[simp] theorem complete_ibuf (c : BitVec 4) (k : BitVec 2) (s : State) : (complete c k s).ibuf = s.ibuf := rfl
@[simp] theorem complete_obuf (c : BitVec 4) (k : BitVec 2) (s : State) : (complete c k s).obuf = s.obuf := rfl
@[simp] theorem complete_inputs (c : BitVec 4) (k : BitVec 2) (s : State) : (complete c k s).inputs = s.inputs := rfl
@[simp] theorem complete_resp (c : BitVec 4) (k : BitVec 2) (s : State) : (complete c k s).resp = s.resp := rfl
@[simp] theorem complete_draws (c : BitVec 4) (k : BitVec 2) (s : State) : (complete c k s).draws = s.draws := rfl
@[simp] theorem complete_resets (c : BitVec 4) (k : BitVec 2) (s : State) : (complete c k s).resets = s.resets := rfl

/-! ### acceptCmd -/

@[simp] theorem acceptCmd_cfg (w : Word) (s : State) : (acceptCmd w s).cfg = s.cfg := rfl
@[simp] theorem acceptCmd_ie (w : Word) (s : State) : (acceptCmd w s).ie = s.ie := rfl
@[simp] theorem acceptCmd_busy (w : Word) (s : State) : (acceptCmd w s).busy = true := rfl
@[simp] theorem acceptCmd_done (w : Word) (s : State) : (acceptCmd w s).done = false := rfl
@[simp] theorem acceptCmd_err (w : Word) (s : State) : (acceptCmd w s).err = false := rfl
@[simp] theorem acceptCmd_ovr (w : Word) (s : State) : (acceptCmd w s).ovr = s.ovr := rfl
@[simp] theorem acceptCmd_ecode (w : Word) (s : State) : (acceptCmd w s).ecode = 0 := rfl
@[simp] theorem acceptCmd_tfield (w : Word) (s : State) : (acceptCmd w s).tfield = 0 := rfl
@[simp] theorem acceptCmd_tag (w : Word) (s : State) : (acceptCmd w s).tag = s.tag := rfl
@[simp] theorem acceptCmd_src (w : Word) (s : State) : (acceptCmd w s).src = s.src := rfl
@[simp] theorem acceptCmd_slen (w : Word) (s : State) : (acceptCmd w s).slen = s.slen := rfl
@[simp] theorem acceptCmd_ocur (w : Word) (s : State) : (acceptCmd w s).ocur = s.ocur := rfl
@[simp] theorem acceptCmd_icur (w : Word) (s : State) : (acceptCmd w s).icur = s.icur := rfl
@[simp] theorem acceptCmd_iend (w : Word) (s : State) : (acceptCmd w s).iend = s.iend := rfl
@[simp] theorem acceptCmd_rlen (w : Word) (s : State) : (acceptCmd w s).rlen = s.rlen := rfl
@[simp] theorem acceptCmd_rtag (w : Word) (s : State) : (acceptCmd w s).rtag = s.rtag := rfl
@[simp] theorem acceptCmd_rcrc (w : Word) (s : State) : (acceptCmd w s).rcrc = s.rcrc := rfl
@[simp] theorem acceptCmd_ccrc (w : Word) (s : State) : (acceptCmd w s).ccrc = s.ccrc := rfl
@[simp] theorem acceptCmd_poff (w : Word) (s : State) : (acceptCmd w s).poff = s.poff := rfl
@[simp] theorem acceptCmd_count (w : Word) (s : State) : (acceptCmd w s).count = s.count := rfl
@[simp] theorem acceptCmd_errpos (w : Word) (s : State) : (acceptCmd w s).errpos = s.errpos := rfl
@[simp] theorem acceptCmd_cerr (w : Word) (s : State) : (acceptCmd w s).cerr = s.cerr := rfl
@[simp] theorem acceptCmd_latch (w : Word) (s : State) : (acceptCmd w s).latch = w := rfl
@[simp] theorem acceptCmd_ibuf (w : Word) (s : State) : (acceptCmd w s).ibuf = s.ibuf := rfl
@[simp] theorem acceptCmd_obuf (w : Word) (s : State) : (acceptCmd w s).obuf = s.obuf := rfl
@[simp] theorem acceptCmd_inputs (w : Word) (s : State) : (acceptCmd w s).inputs = s.inputs := rfl
@[simp] theorem acceptCmd_resp (w : Word) (s : State) : (acceptCmd w s).resp = s.resp := rfl
@[simp] theorem acceptCmd_draws (w : Word) (s : State) : (acceptCmd w s).draws = s.draws := rfl
@[simp] theorem acceptCmd_resets (w : Word) (s : State) : (acceptCmd w s).resets = s.resets := rfl

/-! ### respond -/

@[simp] theorem respond_cfg (r : Response) (s : State) : (respond r s).cfg = s.cfg := rfl
@[simp] theorem respond_ie (r : Response) (s : State) : (respond r s).ie = s.ie := rfl
@[simp] theorem respond_busy (r : Response) (s : State) : (respond r s).busy = s.busy := rfl
@[simp] theorem respond_done (r : Response) (s : State) : (respond r s).done = s.done := rfl
@[simp] theorem respond_err (r : Response) (s : State) : (respond r s).err = s.err := rfl
@[simp] theorem respond_ovr (r : Response) (s : State) : (respond r s).ovr = s.ovr := rfl
@[simp] theorem respond_ecode (r : Response) (s : State) : (respond r s).ecode = s.ecode := rfl
@[simp] theorem respond_tfield (r : Response) (s : State) : (respond r s).tfield = s.tfield := rfl
@[simp] theorem respond_tag (r : Response) (s : State) : (respond r s).tag = s.tag := rfl
@[simp] theorem respond_src (r : Response) (s : State) : (respond r s).src = s.src := rfl
@[simp] theorem respond_slen (r : Response) (s : State) : (respond r s).slen = s.slen := rfl
@[simp] theorem respond_ocur (r : Response) (s : State) : (respond r s).ocur = s.ocur := rfl
@[simp] theorem respond_icur (r : Response) (s : State) : (respond r s).icur = s.icur := rfl
@[simp] theorem respond_iend (r : Response) (s : State) : (respond r s).iend = s.iend := rfl
@[simp] theorem respond_rlen (r : Response) (s : State) : (respond r s).rlen = s.rlen := rfl
@[simp] theorem respond_rtag (r : Response) (s : State) : (respond r s).rtag = s.rtag := rfl
@[simp] theorem respond_rcrc (r : Response) (s : State) : (respond r s).rcrc = s.rcrc := rfl
@[simp] theorem respond_ccrc (r : Response) (s : State) : (respond r s).ccrc = s.ccrc := rfl
@[simp] theorem respond_poff (r : Response) (s : State) : (respond r s).poff = s.poff := rfl
@[simp] theorem respond_count (r : Response) (s : State) : (respond r s).count = s.count := rfl
@[simp] theorem respond_errpos (r : Response) (s : State) : (respond r s).errpos = s.errpos := rfl
@[simp] theorem respond_cerr (r : Response) (s : State) : (respond r s).cerr = s.cerr := rfl
@[simp] theorem respond_latch (r : Response) (s : State) : (respond r s).latch = s.latch := rfl
@[simp] theorem respond_ibuf (r : Response) (s : State) : (respond r s).ibuf = s.ibuf := rfl
@[simp] theorem respond_obuf (r : Response) (s : State) : (respond r s).obuf = s.obuf := rfl
@[simp] theorem respond_inputs (r : Response) (s : State) : (respond r s).inputs = s.inputs := rfl
@[simp] theorem respond_resp (r : Response) (s : State) : (respond r s).resp = r := rfl
@[simp] theorem respond_draws (r : Response) (s : State) : (respond r s).draws = s.draws := rfl
@[simp] theorem respond_resets (r : Response) (s : State) : (respond r s).resets = s.resets := rfl

/-! ### overrun -/

@[simp] theorem overrun_cfg (s : State) : (overrun s).cfg = s.cfg := rfl
@[simp] theorem overrun_ie (s : State) : (overrun s).ie = s.ie := rfl
@[simp] theorem overrun_busy (s : State) : (overrun s).busy = s.busy := rfl
@[simp] theorem overrun_done (s : State) : (overrun s).done = s.done := rfl
@[simp] theorem overrun_err (s : State) : (overrun s).err = s.err := rfl
@[simp] theorem overrun_ovr (s : State) : (overrun s).ovr = true := rfl
@[simp] theorem overrun_ecode (s : State) : (overrun s).ecode = s.ecode := rfl
@[simp] theorem overrun_tfield (s : State) : (overrun s).tfield = s.tfield := rfl
@[simp] theorem overrun_tag (s : State) : (overrun s).tag = s.tag := rfl
@[simp] theorem overrun_src (s : State) : (overrun s).src = s.src := rfl
@[simp] theorem overrun_slen (s : State) : (overrun s).slen = s.slen := rfl
@[simp] theorem overrun_ocur (s : State) : (overrun s).ocur = s.ocur := rfl
@[simp] theorem overrun_icur (s : State) : (overrun s).icur = s.icur := rfl
@[simp] theorem overrun_iend (s : State) : (overrun s).iend = s.iend := rfl
@[simp] theorem overrun_rlen (s : State) : (overrun s).rlen = s.rlen := rfl
@[simp] theorem overrun_rtag (s : State) : (overrun s).rtag = s.rtag := rfl
@[simp] theorem overrun_rcrc (s : State) : (overrun s).rcrc = s.rcrc := rfl
@[simp] theorem overrun_ccrc (s : State) : (overrun s).ccrc = s.ccrc := rfl
@[simp] theorem overrun_poff (s : State) : (overrun s).poff = s.poff := rfl
@[simp] theorem overrun_count (s : State) : (overrun s).count = s.count := rfl
@[simp] theorem overrun_errpos (s : State) : (overrun s).errpos = s.errpos := rfl
@[simp] theorem overrun_cerr (s : State) : (overrun s).cerr = s.cerr := rfl
@[simp] theorem overrun_latch (s : State) : (overrun s).latch = s.latch := rfl
@[simp] theorem overrun_ibuf (s : State) : (overrun s).ibuf = s.ibuf := rfl
@[simp] theorem overrun_obuf (s : State) : (overrun s).obuf = s.obuf := rfl
@[simp] theorem overrun_inputs (s : State) : (overrun s).inputs = s.inputs := rfl
@[simp] theorem overrun_resp (s : State) : (overrun s).resp = s.resp := rfl
@[simp] theorem overrun_draws (s : State) : (overrun s).draws = s.draws := rfl
@[simp] theorem overrun_resets (s : State) : (overrun s).resets = s.resets := rfl

/-! ### consumeDraw -/

@[simp] theorem consumeDraw_cfg (s : State) : (consumeDraw s).cfg = s.cfg := rfl
@[simp] theorem consumeDraw_ie (s : State) : (consumeDraw s).ie = s.ie := rfl
@[simp] theorem consumeDraw_busy (s : State) : (consumeDraw s).busy = s.busy := rfl
@[simp] theorem consumeDraw_done (s : State) : (consumeDraw s).done = s.done := rfl
@[simp] theorem consumeDraw_err (s : State) : (consumeDraw s).err = s.err := rfl
@[simp] theorem consumeDraw_ovr (s : State) : (consumeDraw s).ovr = s.ovr := rfl
@[simp] theorem consumeDraw_ecode (s : State) : (consumeDraw s).ecode = s.ecode := rfl
@[simp] theorem consumeDraw_tfield (s : State) : (consumeDraw s).tfield = s.tfield := rfl
@[simp] theorem consumeDraw_tag (s : State) : (consumeDraw s).tag = s.tag := rfl
@[simp] theorem consumeDraw_src (s : State) : (consumeDraw s).src = s.src := rfl
@[simp] theorem consumeDraw_slen (s : State) : (consumeDraw s).slen = s.slen := rfl
@[simp] theorem consumeDraw_ocur (s : State) : (consumeDraw s).ocur = s.ocur := rfl
@[simp] theorem consumeDraw_icur (s : State) : (consumeDraw s).icur = s.icur := rfl
@[simp] theorem consumeDraw_iend (s : State) : (consumeDraw s).iend = s.iend := rfl
@[simp] theorem consumeDraw_rlen (s : State) : (consumeDraw s).rlen = s.rlen := rfl
@[simp] theorem consumeDraw_rtag (s : State) : (consumeDraw s).rtag = s.rtag := rfl
@[simp] theorem consumeDraw_rcrc (s : State) : (consumeDraw s).rcrc = s.rcrc := rfl
@[simp] theorem consumeDraw_ccrc (s : State) : (consumeDraw s).ccrc = s.ccrc := rfl
@[simp] theorem consumeDraw_poff (s : State) : (consumeDraw s).poff = s.poff := rfl
@[simp] theorem consumeDraw_count (s : State) : (consumeDraw s).count = s.count := rfl
@[simp] theorem consumeDraw_errpos (s : State) : (consumeDraw s).errpos = s.errpos := rfl
@[simp] theorem consumeDraw_cerr (s : State) : (consumeDraw s).cerr = s.cerr := rfl
@[simp] theorem consumeDraw_latch (s : State) : (consumeDraw s).latch = s.latch := rfl
@[simp] theorem consumeDraw_ibuf (s : State) : (consumeDraw s).ibuf = s.ibuf := rfl
@[simp] theorem consumeDraw_obuf (s : State) : (consumeDraw s).obuf = s.obuf := rfl
@[simp] theorem consumeDraw_inputs (s : State) : (consumeDraw s).inputs = s.inputs := rfl
@[simp] theorem consumeDraw_resp (s : State) : (consumeDraw s).resp = s.resp := rfl
@[simp] theorem consumeDraw_draws (s : State) : (consumeDraw s).draws = s.draws + 1 := rfl
@[simp] theorem consumeDraw_resets (s : State) : (consumeDraw s).resets = s.resets := rfl

/-! ### putIbuf -/

@[simp] theorem putIbuf_cfg (a : Nat) (bs : List Byte) (s : State) : (putIbuf a bs s).cfg = s.cfg := rfl
@[simp] theorem putIbuf_ie (a : Nat) (bs : List Byte) (s : State) : (putIbuf a bs s).ie = s.ie := rfl
@[simp] theorem putIbuf_busy (a : Nat) (bs : List Byte) (s : State) : (putIbuf a bs s).busy = s.busy := rfl
@[simp] theorem putIbuf_done (a : Nat) (bs : List Byte) (s : State) : (putIbuf a bs s).done = s.done := rfl
@[simp] theorem putIbuf_err (a : Nat) (bs : List Byte) (s : State) : (putIbuf a bs s).err = s.err := rfl
@[simp] theorem putIbuf_ovr (a : Nat) (bs : List Byte) (s : State) : (putIbuf a bs s).ovr = s.ovr := rfl
@[simp] theorem putIbuf_ecode (a : Nat) (bs : List Byte) (s : State) : (putIbuf a bs s).ecode = s.ecode := rfl
@[simp] theorem putIbuf_tfield (a : Nat) (bs : List Byte) (s : State) : (putIbuf a bs s).tfield = s.tfield := rfl
@[simp] theorem putIbuf_tag (a : Nat) (bs : List Byte) (s : State) : (putIbuf a bs s).tag = s.tag := rfl
@[simp] theorem putIbuf_src (a : Nat) (bs : List Byte) (s : State) : (putIbuf a bs s).src = s.src := rfl
@[simp] theorem putIbuf_slen (a : Nat) (bs : List Byte) (s : State) : (putIbuf a bs s).slen = s.slen := rfl
@[simp] theorem putIbuf_ocur (a : Nat) (bs : List Byte) (s : State) : (putIbuf a bs s).ocur = s.ocur := rfl
@[simp] theorem putIbuf_icur (a : Nat) (bs : List Byte) (s : State) : (putIbuf a bs s).icur = s.icur := rfl
@[simp] theorem putIbuf_iend (a : Nat) (bs : List Byte) (s : State) : (putIbuf a bs s).iend = s.iend := rfl
@[simp] theorem putIbuf_rlen (a : Nat) (bs : List Byte) (s : State) : (putIbuf a bs s).rlen = s.rlen := rfl
@[simp] theorem putIbuf_rtag (a : Nat) (bs : List Byte) (s : State) : (putIbuf a bs s).rtag = s.rtag := rfl
@[simp] theorem putIbuf_rcrc (a : Nat) (bs : List Byte) (s : State) : (putIbuf a bs s).rcrc = s.rcrc := rfl
@[simp] theorem putIbuf_ccrc (a : Nat) (bs : List Byte) (s : State) : (putIbuf a bs s).ccrc = s.ccrc := rfl
@[simp] theorem putIbuf_poff (a : Nat) (bs : List Byte) (s : State) : (putIbuf a bs s).poff = s.poff := rfl
@[simp] theorem putIbuf_count (a : Nat) (bs : List Byte) (s : State) : (putIbuf a bs s).count = s.count := rfl
@[simp] theorem putIbuf_errpos (a : Nat) (bs : List Byte) (s : State) : (putIbuf a bs s).errpos = s.errpos := rfl
@[simp] theorem putIbuf_cerr (a : Nat) (bs : List Byte) (s : State) : (putIbuf a bs s).cerr = s.cerr := rfl
@[simp] theorem putIbuf_latch (a : Nat) (bs : List Byte) (s : State) : (putIbuf a bs s).latch = s.latch := rfl
@[simp] theorem putIbuf_ibuf (a : Nat) (bs : List Byte) (s : State) : (putIbuf a bs s).ibuf = Memory.storeBytes s.ibuf a bs := rfl
@[simp] theorem putIbuf_obuf (a : Nat) (bs : List Byte) (s : State) : (putIbuf a bs s).obuf = s.obuf := rfl
@[simp] theorem putIbuf_inputs (a : Nat) (bs : List Byte) (s : State) : (putIbuf a bs s).inputs = s.inputs := rfl
@[simp] theorem putIbuf_resp (a : Nat) (bs : List Byte) (s : State) : (putIbuf a bs s).resp = s.resp := rfl
@[simp] theorem putIbuf_draws (a : Nat) (bs : List Byte) (s : State) : (putIbuf a bs s).draws = s.draws := rfl
@[simp] theorem putIbuf_resets (a : Nat) (bs : List Byte) (s : State) : (putIbuf a bs s).resets = s.resets := rfl

/-! ### putObuf -/

@[simp] theorem putObuf_cfg (a : Nat) (bs : List Byte) (s : State) : (putObuf a bs s).cfg = s.cfg := rfl
@[simp] theorem putObuf_ie (a : Nat) (bs : List Byte) (s : State) : (putObuf a bs s).ie = s.ie := rfl
@[simp] theorem putObuf_busy (a : Nat) (bs : List Byte) (s : State) : (putObuf a bs s).busy = s.busy := rfl
@[simp] theorem putObuf_done (a : Nat) (bs : List Byte) (s : State) : (putObuf a bs s).done = s.done := rfl
@[simp] theorem putObuf_err (a : Nat) (bs : List Byte) (s : State) : (putObuf a bs s).err = s.err := rfl
@[simp] theorem putObuf_ovr (a : Nat) (bs : List Byte) (s : State) : (putObuf a bs s).ovr = s.ovr := rfl
@[simp] theorem putObuf_ecode (a : Nat) (bs : List Byte) (s : State) : (putObuf a bs s).ecode = s.ecode := rfl
@[simp] theorem putObuf_tfield (a : Nat) (bs : List Byte) (s : State) : (putObuf a bs s).tfield = s.tfield := rfl
@[simp] theorem putObuf_tag (a : Nat) (bs : List Byte) (s : State) : (putObuf a bs s).tag = s.tag := rfl
@[simp] theorem putObuf_src (a : Nat) (bs : List Byte) (s : State) : (putObuf a bs s).src = s.src := rfl
@[simp] theorem putObuf_slen (a : Nat) (bs : List Byte) (s : State) : (putObuf a bs s).slen = s.slen := rfl
@[simp] theorem putObuf_ocur (a : Nat) (bs : List Byte) (s : State) : (putObuf a bs s).ocur = s.ocur := rfl
@[simp] theorem putObuf_icur (a : Nat) (bs : List Byte) (s : State) : (putObuf a bs s).icur = s.icur := rfl
@[simp] theorem putObuf_iend (a : Nat) (bs : List Byte) (s : State) : (putObuf a bs s).iend = s.iend := rfl
@[simp] theorem putObuf_rlen (a : Nat) (bs : List Byte) (s : State) : (putObuf a bs s).rlen = s.rlen := rfl
@[simp] theorem putObuf_rtag (a : Nat) (bs : List Byte) (s : State) : (putObuf a bs s).rtag = s.rtag := rfl
@[simp] theorem putObuf_rcrc (a : Nat) (bs : List Byte) (s : State) : (putObuf a bs s).rcrc = s.rcrc := rfl
@[simp] theorem putObuf_ccrc (a : Nat) (bs : List Byte) (s : State) : (putObuf a bs s).ccrc = s.ccrc := rfl
@[simp] theorem putObuf_poff (a : Nat) (bs : List Byte) (s : State) : (putObuf a bs s).poff = s.poff := rfl
@[simp] theorem putObuf_count (a : Nat) (bs : List Byte) (s : State) : (putObuf a bs s).count = s.count := rfl
@[simp] theorem putObuf_errpos (a : Nat) (bs : List Byte) (s : State) : (putObuf a bs s).errpos = s.errpos := rfl
@[simp] theorem putObuf_cerr (a : Nat) (bs : List Byte) (s : State) : (putObuf a bs s).cerr = s.cerr := rfl
@[simp] theorem putObuf_latch (a : Nat) (bs : List Byte) (s : State) : (putObuf a bs s).latch = s.latch := rfl
@[simp] theorem putObuf_ibuf (a : Nat) (bs : List Byte) (s : State) : (putObuf a bs s).ibuf = s.ibuf := rfl
@[simp] theorem putObuf_obuf (a : Nat) (bs : List Byte) (s : State) : (putObuf a bs s).obuf = Memory.storeBytes s.obuf a bs := rfl
@[simp] theorem putObuf_inputs (a : Nat) (bs : List Byte) (s : State) : (putObuf a bs s).inputs = s.inputs := rfl
@[simp] theorem putObuf_resp (a : Nat) (bs : List Byte) (s : State) : (putObuf a bs s).resp = s.resp := rfl
@[simp] theorem putObuf_draws (a : Nat) (bs : List Byte) (s : State) : (putObuf a bs s).draws = s.draws := rfl
@[simp] theorem putObuf_resets (a : Nat) (bs : List Byte) (s : State) : (putObuf a bs s).resets = s.resets := rfl

/-! ### writeStatus -/

@[simp] theorem writeStatus_cfg (v : Word) (s : State) : (writeStatus v s).cfg = s.cfg := rfl
@[simp] theorem writeStatus_ie (v : Word) (s : State) : (writeStatus v s).ie = s.ie := rfl
@[simp] theorem writeStatus_busy (v : Word) (s : State) : (writeStatus v s).busy = s.busy := rfl
@[simp] theorem writeStatus_done (v : Word) (s : State) : (writeStatus v s).done = (s.done && !v.getLsbD 1) := rfl
@[simp] theorem writeStatus_err (v : Word) (s : State) : (writeStatus v s).err = s.err := rfl
@[simp] theorem writeStatus_ovr (v : Word) (s : State) : (writeStatus v s).ovr = (s.ovr && !v.getLsbD 3) := rfl
@[simp] theorem writeStatus_ecode (v : Word) (s : State) : (writeStatus v s).ecode = s.ecode := rfl
@[simp] theorem writeStatus_tfield (v : Word) (s : State) : (writeStatus v s).tfield = s.tfield := rfl
@[simp] theorem writeStatus_tag (v : Word) (s : State) : (writeStatus v s).tag = s.tag := rfl
@[simp] theorem writeStatus_src (v : Word) (s : State) : (writeStatus v s).src = s.src := rfl
@[simp] theorem writeStatus_slen (v : Word) (s : State) : (writeStatus v s).slen = s.slen := rfl
@[simp] theorem writeStatus_ocur (v : Word) (s : State) : (writeStatus v s).ocur = s.ocur := rfl
@[simp] theorem writeStatus_icur (v : Word) (s : State) : (writeStatus v s).icur = s.icur := rfl
@[simp] theorem writeStatus_iend (v : Word) (s : State) : (writeStatus v s).iend = s.iend := rfl
@[simp] theorem writeStatus_rlen (v : Word) (s : State) : (writeStatus v s).rlen = s.rlen := rfl
@[simp] theorem writeStatus_rtag (v : Word) (s : State) : (writeStatus v s).rtag = s.rtag := rfl
@[simp] theorem writeStatus_rcrc (v : Word) (s : State) : (writeStatus v s).rcrc = s.rcrc := rfl
@[simp] theorem writeStatus_ccrc (v : Word) (s : State) : (writeStatus v s).ccrc = s.ccrc := rfl
@[simp] theorem writeStatus_poff (v : Word) (s : State) : (writeStatus v s).poff = s.poff := rfl
@[simp] theorem writeStatus_count (v : Word) (s : State) : (writeStatus v s).count = s.count := rfl
@[simp] theorem writeStatus_errpos (v : Word) (s : State) : (writeStatus v s).errpos = s.errpos := rfl
@[simp] theorem writeStatus_cerr (v : Word) (s : State) : (writeStatus v s).cerr = s.cerr := rfl
@[simp] theorem writeStatus_latch (v : Word) (s : State) : (writeStatus v s).latch = s.latch := rfl
@[simp] theorem writeStatus_ibuf (v : Word) (s : State) : (writeStatus v s).ibuf = s.ibuf := rfl
@[simp] theorem writeStatus_obuf (v : Word) (s : State) : (writeStatus v s).obuf = s.obuf := rfl
@[simp] theorem writeStatus_inputs (v : Word) (s : State) : (writeStatus v s).inputs = s.inputs := rfl
@[simp] theorem writeStatus_resp (v : Word) (s : State) : (writeStatus v s).resp = s.resp := rfl
@[simp] theorem writeStatus_draws (v : Word) (s : State) : (writeStatus v s).draws = s.draws := rfl
@[simp] theorem writeStatus_resets (v : Word) (s : State) : (writeStatus v s).resets = s.resets := rfl

/-! ### writeCtrl -/

@[simp] theorem writeCtrl_cfg (v : Word) (s : State) : (writeCtrl v s).cfg = s.cfg := rfl
@[simp] theorem writeCtrl_ie (v : Word) (s : State) : (writeCtrl v s).ie = v.getLsbD 0 := rfl
@[simp] theorem writeCtrl_busy (v : Word) (s : State) : (writeCtrl v s).busy = s.busy := rfl
@[simp] theorem writeCtrl_done (v : Word) (s : State) : (writeCtrl v s).done = s.done := rfl
@[simp] theorem writeCtrl_err (v : Word) (s : State) : (writeCtrl v s).err = s.err := rfl
@[simp] theorem writeCtrl_ovr (v : Word) (s : State) : (writeCtrl v s).ovr = s.ovr := rfl
@[simp] theorem writeCtrl_ecode (v : Word) (s : State) : (writeCtrl v s).ecode = s.ecode := rfl
@[simp] theorem writeCtrl_tfield (v : Word) (s : State) : (writeCtrl v s).tfield = s.tfield := rfl
@[simp] theorem writeCtrl_tag (v : Word) (s : State) : (writeCtrl v s).tag = s.tag := rfl
@[simp] theorem writeCtrl_src (v : Word) (s : State) : (writeCtrl v s).src = s.src := rfl
@[simp] theorem writeCtrl_slen (v : Word) (s : State) : (writeCtrl v s).slen = s.slen := rfl
@[simp] theorem writeCtrl_ocur (v : Word) (s : State) : (writeCtrl v s).ocur = s.ocur := rfl
@[simp] theorem writeCtrl_icur (v : Word) (s : State) : (writeCtrl v s).icur = s.icur := rfl
@[simp] theorem writeCtrl_iend (v : Word) (s : State) : (writeCtrl v s).iend = s.iend := rfl
@[simp] theorem writeCtrl_rlen (v : Word) (s : State) : (writeCtrl v s).rlen = s.rlen := rfl
@[simp] theorem writeCtrl_rtag (v : Word) (s : State) : (writeCtrl v s).rtag = s.rtag := rfl
@[simp] theorem writeCtrl_rcrc (v : Word) (s : State) : (writeCtrl v s).rcrc = s.rcrc := rfl
@[simp] theorem writeCtrl_ccrc (v : Word) (s : State) : (writeCtrl v s).ccrc = s.ccrc := rfl
@[simp] theorem writeCtrl_poff (v : Word) (s : State) : (writeCtrl v s).poff = s.poff := rfl
@[simp] theorem writeCtrl_count (v : Word) (s : State) : (writeCtrl v s).count = s.count := rfl
@[simp] theorem writeCtrl_errpos (v : Word) (s : State) : (writeCtrl v s).errpos = s.errpos := rfl
@[simp] theorem writeCtrl_cerr (v : Word) (s : State) : (writeCtrl v s).cerr = s.cerr := rfl
@[simp] theorem writeCtrl_latch (v : Word) (s : State) : (writeCtrl v s).latch = s.latch := rfl
@[simp] theorem writeCtrl_ibuf (v : Word) (s : State) : (writeCtrl v s).ibuf = s.ibuf := rfl
@[simp] theorem writeCtrl_obuf (v : Word) (s : State) : (writeCtrl v s).obuf = s.obuf := rfl
@[simp] theorem writeCtrl_inputs (v : Word) (s : State) : (writeCtrl v s).inputs = s.inputs := rfl
@[simp] theorem writeCtrl_resp (v : Word) (s : State) : (writeCtrl v s).resp = s.resp := rfl
@[simp] theorem writeCtrl_draws (v : Word) (s : State) : (writeCtrl v s).draws = s.draws := rfl
@[simp] theorem writeCtrl_resets (v : Word) (s : State) : (writeCtrl v s).resets = s.resets := rfl

/-! ### recordRegs -/

@[simp] theorem recordRegs_cfg (r : Record) (s : State) : (recordRegs r s).cfg = s.cfg := rfl
@[simp] theorem recordRegs_ie (r : Record) (s : State) : (recordRegs r s).ie = s.ie := rfl
@[simp] theorem recordRegs_busy (r : Record) (s : State) : (recordRegs r s).busy = s.busy := rfl
@[simp] theorem recordRegs_done (r : Record) (s : State) : (recordRegs r s).done = s.done := rfl
@[simp] theorem recordRegs_err (r : Record) (s : State) : (recordRegs r s).err = s.err := rfl
@[simp] theorem recordRegs_ovr (r : Record) (s : State) : (recordRegs r s).ovr = s.ovr := rfl
@[simp] theorem recordRegs_ecode (r : Record) (s : State) : (recordRegs r s).ecode = s.ecode := rfl
@[simp] theorem recordRegs_tfield (r : Record) (s : State) : (recordRegs r s).tfield = s.tfield := rfl
@[simp] theorem recordRegs_tag (r : Record) (s : State) : (recordRegs r s).tag = s.tag := rfl
@[simp] theorem recordRegs_src (r : Record) (s : State) : (recordRegs r s).src = s.src := rfl
@[simp] theorem recordRegs_slen (r : Record) (s : State) : (recordRegs r s).slen = s.slen := rfl
@[simp] theorem recordRegs_ocur (r : Record) (s : State) : (recordRegs r s).ocur = s.ocur := rfl
@[simp] theorem recordRegs_icur (r : Record) (s : State) : (recordRegs r s).icur = s.icur := rfl
@[simp] theorem recordRegs_iend (r : Record) (s : State) : (recordRegs r s).iend = s.iend := rfl
@[simp] theorem recordRegs_rlen (r : Record) (s : State) : (recordRegs r s).rlen = r.len := rfl
@[simp] theorem recordRegs_rtag (r : Record) (s : State) : (recordRegs r s).rtag = r.tag := rfl
@[simp] theorem recordRegs_rcrc (r : Record) (s : State) : (recordRegs r s).rcrc = r.stored := rfl
@[simp] theorem recordRegs_ccrc (r : Record) (s : State) : (recordRegs r s).ccrc = r.computed := rfl
@[simp] theorem recordRegs_poff (r : Record) (s : State) : (recordRegs r s).poff = w32 r.poff := rfl
@[simp] theorem recordRegs_count (r : Record) (s : State) : (recordRegs r s).count = s.count := rfl
@[simp] theorem recordRegs_errpos (r : Record) (s : State) : (recordRegs r s).errpos = s.errpos := rfl
@[simp] theorem recordRegs_cerr (r : Record) (s : State) : (recordRegs r s).cerr = s.cerr := rfl
@[simp] theorem recordRegs_latch (r : Record) (s : State) : (recordRegs r s).latch = s.latch := rfl
@[simp] theorem recordRegs_ibuf (r : Record) (s : State) : (recordRegs r s).ibuf = s.ibuf := rfl
@[simp] theorem recordRegs_obuf (r : Record) (s : State) : (recordRegs r s).obuf = s.obuf := rfl
@[simp] theorem recordRegs_inputs (r : Record) (s : State) : (recordRegs r s).inputs = s.inputs := rfl
@[simp] theorem recordRegs_resp (r : Record) (s : State) : (recordRegs r s).resp = s.resp := rfl
@[simp] theorem recordRegs_draws (r : Record) (s : State) : (recordRegs r s).draws = s.draws := rfl
@[simp] theorem recordRegs_resets (r : Record) (s : State) : (recordRegs r s).resets = s.resets := rfl

/-! ### diagnose: every register but the five diagnostics -/

@[simp] theorem diagnose_cfg (b : BadRecord) (s : State) : (diagnose b s).cfg = s.cfg := by cases b <;> rfl
@[simp] theorem diagnose_ie (b : BadRecord) (s : State) : (diagnose b s).ie = s.ie := by cases b <;> rfl
@[simp] theorem diagnose_busy (b : BadRecord) (s : State) : (diagnose b s).busy = s.busy := by cases b <;> rfl
@[simp] theorem diagnose_done (b : BadRecord) (s : State) : (diagnose b s).done = s.done := by cases b <;> rfl
@[simp] theorem diagnose_err (b : BadRecord) (s : State) : (diagnose b s).err = s.err := by cases b <;> rfl
@[simp] theorem diagnose_ovr (b : BadRecord) (s : State) : (diagnose b s).ovr = s.ovr := by cases b <;> rfl
@[simp] theorem diagnose_ecode (b : BadRecord) (s : State) : (diagnose b s).ecode = s.ecode := by cases b <;> rfl
@[simp] theorem diagnose_tfield (b : BadRecord) (s : State) : (diagnose b s).tfield = s.tfield := by cases b <;> rfl
@[simp] theorem diagnose_tag (b : BadRecord) (s : State) : (diagnose b s).tag = s.tag := by cases b <;> rfl
@[simp] theorem diagnose_src (b : BadRecord) (s : State) : (diagnose b s).src = s.src := by cases b <;> rfl
@[simp] theorem diagnose_slen (b : BadRecord) (s : State) : (diagnose b s).slen = s.slen := by cases b <;> rfl
@[simp] theorem diagnose_ocur (b : BadRecord) (s : State) : (diagnose b s).ocur = s.ocur := by cases b <;> rfl
@[simp] theorem diagnose_icur (b : BadRecord) (s : State) : (diagnose b s).icur = s.icur := by cases b <;> rfl
@[simp] theorem diagnose_iend (b : BadRecord) (s : State) : (diagnose b s).iend = s.iend := by cases b <;> rfl
@[simp] theorem diagnose_count (b : BadRecord) (s : State) : (diagnose b s).count = s.count := by cases b <;> rfl
@[simp] theorem diagnose_errpos (b : BadRecord) (s : State) : (diagnose b s).errpos = s.errpos := by cases b <;> rfl
@[simp] theorem diagnose_cerr (b : BadRecord) (s : State) : (diagnose b s).cerr = s.cerr := by cases b <;> rfl
@[simp] theorem diagnose_latch (b : BadRecord) (s : State) : (diagnose b s).latch = s.latch := by cases b <;> rfl
@[simp] theorem diagnose_ibuf (b : BadRecord) (s : State) : (diagnose b s).ibuf = s.ibuf := by cases b <;> rfl
@[simp] theorem diagnose_obuf (b : BadRecord) (s : State) : (diagnose b s).obuf = s.obuf := by cases b <;> rfl
@[simp] theorem diagnose_inputs (b : BadRecord) (s : State) : (diagnose b s).inputs = s.inputs := by cases b <;> rfl
@[simp] theorem diagnose_resp (b : BadRecord) (s : State) : (diagnose b s).resp = s.resp := by cases b <;> rfl
@[simp] theorem diagnose_draws (b : BadRecord) (s : State) : (diagnose b s).draws = s.draws := by cases b <;> rfl
@[simp] theorem diagnose_resets (b : BadRecord) (s : State) : (diagnose b s).resets = s.resets := by cases b <;> rfl

end Sys2Proof.Machine
end

