-- ==== Sys2Proof/Laws/Bus.lean ====
section
/-! SUPPORT. What a host access reaches and all it can change. -/

namespace Sys2Proof.Machine

/-- A register offset of the window reaches the register block. -/
theorem busTarget_regs (c : Config) {off : Nat} (h : off < 0x100) :
    busTarget c (c.base + off) = .regs off := by
  simp only [busTarget, Nat.add_sub_cancel_left]
  rw [if_neg (by omega), if_pos h]

/-- A legal buffer is at most 2^18 bytes, at least 16, and a multiple of 4 (00_scope.md R6). -/
theorem legal_size {k : Nat} (h : Config.legalLog2 k = true) :
    16 ≤ 2 ^ k ∧ 2 ^ k ≤ 0x40000 ∧ 2 ^ k % 4 = 0 := by
  simp only [Config.legalLog2, Bool.and_eq_true, decide_eq_true_eq] at h
  obtain ⟨h1, h2⟩ := h
  interval_cases k <;> decide

/-- The sizes of a legal instance. -/
theorem legal_sizes {c : Config} (h : c.wellFormed = true) :
    (16 ≤ ibufSize c ∧ ibufSize c ≤ 0x40000 ∧ ibufSize c % 4 = 0) ∧
    (16 ≤ obufSize c ∧ obufSize c ≤ 0x40000 ∧ obufSize c % 4 = 0) := by
  simp only [Config.wellFormed, Bool.and_eq_true] at h
  exact ⟨legal_size h.1.1, legal_size h.1.2⟩

/-- An IBUF byte of the window reaches IBUF. -/
theorem busTarget_ibuf {c : Config} (hc : c.wellFormed = true) {a : Nat} (h : a < ibufSize c) :
    busTarget c (c.base + (0x40000 + a)) = .ibuf a := by
  have := (legal_sizes hc).1
  simp only [busTarget, Nat.add_sub_cancel_left]
  rw [if_neg (by omega), if_neg (by omega), if_neg (by omega), if_pos (by omega)]

/-- An OBUF byte of the window reaches OBUF. -/
theorem busTarget_obuf {c : Config} (hc : c.wellFormed = true) {a : Nat} (h : a < obufSize c) :
    busTarget c (c.base + (0x80000 + a)) = .obuf a := by
  have := legal_sizes hc
  simp only [busTarget, Nat.add_sub_cancel_left]
  rw [if_neg (by omega), if_neg (by omega), if_neg (by omega), if_neg (by omega), if_neg (by omega),
    if_pos (by omega)]

/-- What an address reaches, read backwards. -/
theorem busTarget_cases (c : Config) (addr : Nat) :
    (busTarget c addr = .outside ∧ (addr < c.base ∨ 2 ^ 20 ≤ addr - c.base)) ∨
    (c.base ≤ addr ∧ addr - c.base < 2 ^ 20 ∧
      ((∃ off, busTarget c addr = .regs off ∧ addr = c.base + off ∧ off < 0x100) ∨
      (∃ a, busTarget c addr = .ibuf a ∧ addr = c.base + (0x40000 + a) ∧ a < ibufSize c) ∨
      (∃ a, busTarget c addr = .obuf a ∧ addr = c.base + (0x80000 + a) ∧ a < obufSize c) ∨
      (busTarget c addr = .unmapped ∧
        ((0x100 ≤ addr - c.base ∧ addr - c.base < 0x40000) ∨
          (0x40000 + ibufSize c ≤ addr - c.base ∧ addr - c.base < 0x80000) ∨
          0x80000 + obufSize c ≤ addr - c.base)))) := by
  by_cases h0 : addr < c.base ∨ 2 ^ 20 ≤ addr - c.base
  · exact .inl ⟨by simp only [busTarget]; rw [if_pos h0], h0⟩
  · refine .inr ⟨by omega, by omega, ?_⟩
    simp only [busTarget, if_neg h0]
    by_cases h1 : addr - c.base < 0x100
    · exact .inl ⟨_, if_pos h1, by omega, h1⟩
    · rw [if_neg h1]
      by_cases h2 : addr - c.base < 0x40000
      · exact .inr (.inr (.inr ⟨if_pos h2, .inl ⟨by omega, h2⟩⟩))
      · rw [if_neg h2]
        by_cases h3 : addr - c.base < 0x40000 + ibufSize c
        · exact .inr (.inl ⟨_, if_pos h3, by omega, by omega⟩)
        · rw [if_neg h3]
          by_cases h4 : addr - c.base < 0x80000
          · exact .inr (.inr (.inr ⟨if_pos h4, .inr (.inl ⟨by omega, h4⟩)⟩))
          · rw [if_neg h4]
            by_cases h5 : addr - c.base < 0x80000 + obufSize c
            · exact .inr (.inr (.inl ⟨_, if_pos h5, by omega, by omega⟩))
            · exact .inr (.inr (.inr ⟨if_neg h5, .inr (.inr (by omega))⟩))

/-- A read register changes the response and the draw counter alone; the counter only during BUSY. -/
theorem readReg_cases (r : Reg) (s : State) : ∃ v d, readReg r s = { s with resp := .word v, draws := d } ∧
    (s.busy = false → v = regValue r s ∧ d = s.draws) := by
  by_cases hb : s.busy = true
  · by_cases h1 : engineWritten r = true
    · exact ⟨_, _, by simp [readReg, hb, h1, consumeDraw, respond]; exact ⟨rfl, rfl⟩, by simp [hb]⟩
    · by_cases h2 : r = .status
      · subst h2
        exact ⟨_, _, by simp [readReg, hb, engineWritten, consumeDraw, respond]; exact ⟨rfl, rfl⟩,
          by simp [hb]⟩
      · exact ⟨regValue r s, s.draws, by simp [readReg, h1, h2, respond], by simp [hb]⟩
  · simp only [Bool.not_eq_true] at hb
    exact ⟨regValue r s, s.draws, by simp [readReg, hb, respond], fun _ => ⟨rfl, rfl⟩⟩

/-- A read changes the response and the draw counter alone; the counter only during BUSY. -/
theorem readTarget_cases (t : Target) (w : Width) (s : State) :
    ∃ r d, readTarget t w s = { s with resp := r, draws := d } ∧ (s.busy = false → d = s.draws) := by
  cases t with
  | regs off =>
    simp only [readTarget]
    cases regAt off with
    | none => exact ⟨_, _, rfl, fun _ => rfl⟩
    | some r =>
      obtain ⟨v, d, h, hd⟩ := readReg_cases r s
      exact ⟨_, _, h, fun hb => (hd hb).2⟩
  | ibuf a => exact ⟨_, _, rfl, fun _ => rfl⟩
  | obuf a =>
    simp only [readTarget]
    by_cases hb : s.busy = true
    · rw [if_pos hb]
      exact ⟨_, _, rfl, by simp [hb]⟩
    · rw [if_neg hb]
      exact ⟨_, _, rfl, fun _ => rfl⟩
  | unmapped => exact ⟨_, _, rfl, fun _ => rfl⟩
  | outside => exact ⟨_, _, rfl, fun _ => rfl⟩

/-- The offset of a register (10_state.md R30). -/
def regOffset : Reg → Nat
  | .id => 0x00 | .caps => 0x04 | .ctrl => 0x08 | .status => 0x0C | .cmd => 0x10 | .tag => 0x14
  | .tflags => 0x18 | .src => 0x1C | .slen => 0x20 | .ocur => 0x24 | .icur => 0x28 | .iend => 0x2C
  | .rlen => 0x30 | .rtag => 0x34 | .rcrc => 0x38 | .ccrc => 0x3C | .poff => 0x40 | .count => 0x44
  | .errpos => 0x48 | .rtflags => 0x4C

/-- The offset a register was found at is its own. -/
theorem regAt_some {off : Nat} {r : Reg} (h : regAt off = some r) : off = regOffset r := by
  unfold regAt at h
  split at h <;> first | (cases h; rfl) | cases h

/-- Each register is found at its offset. -/
theorem regAt_regOffset (r : Reg) : regAt (regOffset r) = some r := by cases r <;> rfl

/-- Everything a write taken by the bus can do, before the response (20_memory.md R59, R60). -/
inductive WriteEffect (s : State) (w : Width) (addr : Nat) (v : Word) : State → Prop where
  | ignored : WriteEffect s w addr v s
  | ctrl : w = .w32 → addr = s.cfg.base + 0x08 → WriteEffect s w addr v (writeCtrl v s)
  | status : w = .w32 → addr = s.cfg.base + 0x0C → WriteEffect s w addr v (writeStatus v s)
  | dropped : s.busy = true → WriteEffect s w addr v (overrun s)
  | cmd : s.busy = false → w = .w32 → addr = s.cfg.base + 0x10 →
      WriteEffect s w addr v (acceptCmd v s)
  | tag : s.busy = false → w = .w32 → addr = s.cfg.base + 0x14 →
      WriteEffect s w addr v { s with tag := v }
  | src : s.busy = false → w = .w32 → addr = s.cfg.base + 0x1C →
      WriteEffect s w addr v { s with src := v }
  | slen : s.busy = false → w = .w32 → addr = s.cfg.base + 0x20 →
      WriteEffect s w addr v { s with slen := v }
  | ocur : s.busy = false → w = .w32 → addr = s.cfg.base + 0x24 →
      WriteEffect s w addr v { s with ocur := v }
  | icur : s.busy = false → w = .w32 → addr = s.cfg.base + 0x28 →
      WriteEffect s w addr v { s with icur := v, cerr := false }
  | iend : s.busy = false → w = .w32 → addr = s.cfg.base + 0x2C →
      WriteEffect s w addr v { s with iend := v, cerr := false }
  | ibuf (x : Nat) : s.busy = false → addr = s.cfg.base + (0x40000 + x) → x < ibufSize s.cfg →
      accessFits (.ibuf x) w = true → WriteEffect s w addr v (putIbuf x (writtenBytes v w) s)
  | obuf (x : Nat) : s.busy = false → addr = s.cfg.base + (0x80000 + x) → x < obufSize s.cfg →
      accessFits (.obuf x) w = true → WriteEffect s w addr v (putObuf x (writtenBytes v w) s)

/-- While BUSY = 0 a write takes effect. -/
theorem unlessBusy_idle {s : State} (hb : s.busy = false) (f : State → State) :
    unlessBusy f s = f s := by simp [unlessBusy, hb]

/-- While BUSY = 1 a write is dropped and sets OVR (20_memory.md R60). -/
theorem unlessBusy_busy {s : State} (hb : s.busy = true) (f : State → State) :
    unlessBusy f s = overrun s := by simp [unlessBusy, hb]

/-- A write to a register, read backwards. -/
theorem writeReg_effect (r : Reg) (v : Word) (s : State) {w : Width} {addr : Nat} (hw : w = .w32)
    (ha : addr = s.cfg.base + regOffset r) : WriteEffect s w addr v (writeReg r v s) := by
  cases hb : s.busy with
  | false =>
    cases r <;> simp only [writeReg, unlessBusy_idle hb] <;>
      first
      | exact .ignored
      | exact .ctrl hw ha
      | exact .status hw ha
      | exact .cmd hb hw ha
      | exact .tag hb hw ha
      | exact .src hb hw ha
      | exact .slen hb hw ha
      | exact .ocur hb hw ha
      | exact .icur hb hw ha
      | exact .iend hb hw ha
  | true =>
    cases r <;> simp only [writeReg, unlessBusy_busy hb] <;>
      first
      | exact .ignored
      | exact .ctrl hw ha
      | exact .status hw ha
      | exact .dropped hb

/-- Everything a host access can do: a read, an ignored access or an error changes the response and the
draw counter alone (the counter only during BUSY); a write has one of the effects above. -/
theorem hostAccess_cases (a : Access) (s : State) :
    (∃ r d, hostAccess a s = { s with resp := r, draws := d } ∧ (s.busy = false → d = s.draws)) ∨
    ∃ w addr v t, a = .write w addr v ∧ WriteEffect s w addr v t ∧ hostAccess a s = respond .written t := by
  by_cases h1 : busTarget s.cfg (accessAddr a) = .outside
  · exact .inl ⟨.notSelected, s.draws, by simp [hostAccess, h1, respond], fun _ => rfl⟩
  · by_cases h2 : accessFits (busTarget s.cfg (accessAddr a)) (accessWidth a) = true
    · cases a with
      | read w addr =>
        obtain ⟨r, d, h, hd⟩ := readTarget_cases (busTarget s.cfg addr) w s
        refine .inl ⟨r, d, ?_, hd⟩
        rw [← h]
        simp only [accessAddr, accessWidth] at h1 h2
        simp [hostAccess, h1, h2, accessAddr, accessWidth]
      | write w addr v =>
        simp only [accessAddr, accessWidth] at h1 h2
        have hEq : hostAccess (.write w addr v) s = writeTarget (busTarget s.cfg addr) w v s := by
          simp [hostAccess, h1, h2, accessAddr, accessWidth]
        refine .inr ?_
        rcases busTarget_cases s.cfg addr with ⟨h, -⟩ | ⟨-, -, h⟩
        · exact absurd h h1
        · rcases h with ⟨off, ht, ha, -⟩ | ⟨x, ht, ha, hx⟩ | ⟨x, ht, ha, hx⟩ | ⟨ht, -⟩
          · rw [ht] at h2 hEq
            have hw : w = .w32 := by cases w <;> simp_all [accessFits]
            simp only [writeTarget] at hEq
            cases hr : regAt off with
            | none => exact ⟨w, addr, v, s, rfl, .ignored, by rw [hEq, hr]⟩
            | some r =>
              exact ⟨w, addr, v, _, rfl, writeReg_effect r v s hw (by rw [ha, regAt_some hr]),
                by rw [hEq, hr]⟩
          · rw [ht] at h2 hEq
            cases hb : s.busy with
            | true => exact ⟨w, addr, v, _, rfl, .dropped hb, by simp [hEq, writeTarget, unlessBusy, hb]⟩
            | false =>
              exact ⟨w, addr, v, _, rfl, .ibuf x hb ha hx h2, by simp [hEq, writeTarget, unlessBusy, hb]⟩
          · rw [ht] at h2 hEq
            cases hb : s.busy with
            | true => exact ⟨w, addr, v, _, rfl, .dropped hb, by simp [hEq, writeTarget, unlessBusy, hb]⟩
            | false =>
              exact ⟨w, addr, v, _, rfl, .obuf x hb ha hx h2, by simp [hEq, writeTarget, unlessBusy, hb]⟩
          · rw [ht] at h2
            cases w <;> simp [accessFits] at h2
    · refine .inl ⟨.busError, s.draws, ?_, fun _ => rfl⟩
      simp [hostAccess, h1, h2, respond]

/-- No host access changes the parameters. -/
@[simp] theorem hostAccess_cfg (a : Access) (s : State) : (hostAccess a s).cfg = s.cfg := by
  rcases hostAccess_cases a s with ⟨r, d, h, -⟩ | ⟨w, addr, v, t, -, he, h⟩
  · rw [h]
  · rw [h]
    cases he <;> rfl

/-- No host access changes what waits to happen. -/
@[simp] theorem hostAccess_inputs (a : Access) (s : State) : (hostAccess a s).inputs = s.inputs := by
  rcases hostAccess_cases a s with ⟨r, d, h, -⟩ | ⟨w, addr, v, t, -, he, h⟩
  · rw [h]
  · rw [h]
    cases he <;> rfl

/-- Everything a host access can do while BUSY = 1: the response, the draw counter, IE, a cleared DONE,
OVR (20_memory.md R60, R61). -/
theorem hostAccess_busy {s : State} (hb : s.busy = true) (a : Access) :
    ∃ ie done ovr resp draws, hostAccess a s =
      { s with ie := ie, done := done, ovr := ovr, resp := resp, draws := draws } ∧
      (done = true → s.done = true) := by
  rcases hostAccess_cases a s with ⟨r, d, h, -⟩ | ⟨w, addr, v, t, -, he, h⟩
  · exact ⟨s.ie, s.done, s.ovr, r, d, h, id⟩
  · cases he with
    | ignored => exact ⟨s.ie, s.done, s.ovr, .written, s.draws, h, id⟩
    | ctrl => exact ⟨_, s.done, s.ovr, .written, s.draws, h, id⟩
    | status =>
      refine ⟨s.ie, s.done && !v.getLsbD 1, s.ovr && !v.getLsbD 3, .written, s.draws, h, fun hd => ?_⟩
      simp only [Bool.and_eq_true] at hd
      exact hd.1
    | dropped => exact ⟨s.ie, s.done, true, .written, s.draws, h, id⟩
    | _ => simp_all

end Sys2Proof.Machine
end

