-- ==== Sys2Proof/Laws/Access.lean ====
section
/-! SUPPORT. What the host's accesses by block offset do (30_encoding.md R90): a claim about a register
or a buffer byte cites these and never unfolds the address map. -/

namespace Sys2Proof.Machine

open Sys2Proof.Safety

/-- A 32-bit write to a register's offset. -/
theorem wr32_reg (s : State) (r : Reg) (v : Word) :
    wr32 (regOffset r) v s = respond .written (writeReg r v s) := by
  have h : regOffset r < 0x100 := by cases r <;> decide
  have h4 : (regOffset r % 4 == 0) = true := by cases r <;> decide
  simp only [wr32, hostAccess, accessAddr, busTarget_regs _ h, accessFits, accessWidth, h4, writeTarget,
    regAt_regOffset]
  rfl

/-- A 32-bit read of a register's offset. -/
theorem rd32_reg (s : State) (r : Reg) : rd32 (regOffset r) s = readReg r s := by
  have h : regOffset r < 0x100 := by cases r <;> decide
  have h4 : (regOffset r % 4 == 0) = true := by cases r <;> decide
  simp only [rd32, hostAccess, accessAddr, busTarget_regs _ h, accessFits, accessWidth, h4, readTarget,
    regAt_regOffset]
  rfl

/-- No register lies at a reserved offset (10_state.md R30). -/
theorem regAt_reserved {off : Nat} (h : 0x50 ≤ off) : regAt off = none := by
  cases h' : regAt off with
  | none => rfl
  | some r =>
    have := regAt_some h'
    cases r <;> simp [regOffset] at this <;> omega

/-- A write to a reserved offset is ignored (10_state.md R30). -/
theorem wr32_reserved (s : State) (v : Word) {off : Nat} (h : 0x50 ≤ off) (h2 : off ≤ 0xFC)
    (h4 : off % 4 = 0) : wr32 off v s = respond .written s := by
  have h4' : (off % 4 == 0) = true := by simp [h4]
  simp only [wr32, hostAccess, accessAddr, busTarget_regs _ (show off < 0x100 by omega), accessFits,
    accessWidth, h4', writeTarget, regAt_reserved h]
  rfl

/-- A reserved offset reads 0 (10_state.md R30). -/
theorem rd32_reserved (s : State) {off : Nat} (h : 0x50 ≤ off) (h2 : off ≤ 0xFC) (h4 : off % 4 = 0) :
    rd32 off s = respond (.word 0) s := by
  have h4' : (off % 4 == 0) = true := by simp [h4]
  simp only [rd32, hostAccess, accessAddr, busTarget_regs _ (show off < 0x100 by omega), accessFits,
    accessWidth, h4', readTarget, regAt_reserved h]
  rfl

/-- The data of an 8-bit write. -/
theorem byteOf_setWidth (b : Byte) : byteOf (b.setWidth 32) 3 = b := by
  simp only [byteOf]
  ext i hi
  simp [hi]
  intro
  omega

section Buffers

variable {s : State} (hc : s.cfg.wellFormed = true) {a : Nat}
include hc

/-- An 8-bit write to IBUF. -/
theorem wr8_ibuf (h : a < ibufSize s.cfg) (b : Byte) :
    wr8 (0x40000 + a) b s = respond .written (unlessBusy (putIbuf a [b]) s) := by
  simp only [wr8, hostAccess, accessAddr, busTarget_ibuf hc h, accessFits, accessWidth, writeTarget,
    writtenBytes, byteOf_setWidth]
  rfl

/-- A 32-bit write to IBUF. -/
theorem wr32_ibuf (h : a < ibufSize s.cfg) (h4 : a % 4 = 0) (v : Word) :
    wr32 (0x40000 + a) v s = respond .written (unlessBusy (putIbuf a (bytesBe32 v)) s) := by
  simp only [wr32, hostAccess, accessAddr, busTarget_ibuf hc h, accessFits, accessWidth, writeTarget,
    writtenBytes, h4]
  rfl

/-- An 8-bit write to OBUF. -/
theorem wr8_obuf (h : a < obufSize s.cfg) (b : Byte) :
    wr8 (0x80000 + a) b s = respond .written (unlessBusy (putObuf a [b]) s) := by
  simp only [wr8, hostAccess, accessAddr, busTarget_obuf hc h, accessFits, accessWidth, writeTarget,
    writtenBytes, byteOf_setWidth]
  rfl

/-- A 32-bit write to OBUF. -/
theorem wr32_obuf (h : a < obufSize s.cfg) (h4 : a % 4 = 0) (v : Word) :
    wr32 (0x80000 + a) v s = respond .written (unlessBusy (putObuf a (bytesBe32 v)) s) := by
  simp only [wr32, hostAccess, accessAddr, busTarget_obuf hc h, accessFits, accessWidth, writeTarget,
    writtenBytes, h4]
  rfl

/-- An 8-bit read of IBUF. -/
theorem rd8_ibuf (h : a < ibufSize s.cfg) :
    rd8 (0x40000 + a) s = respond (.byte (ibufByte s a)) s := by
  simp only [rd8, hostAccess, accessAddr, busTarget_ibuf hc h, accessFits, accessWidth, readTarget,
    bufferValue]
  rfl

/-- A 32-bit read of IBUF. -/
theorem rd32_ibuf (h : a < ibufSize s.cfg) (h4 : a % 4 = 0) :
    rd32 (0x40000 + a) s = respond (.word (be32At (ibufByte s) a)) s := by
  simp only [rd32, hostAccess, accessAddr, busTarget_ibuf hc h, accessFits, accessWidth, readTarget,
    bufferValue, h4]
  rfl

/-- An 8-bit read of OBUF. -/
theorem rd8_obuf (h : a < obufSize s.cfg) : rd8 (0x80000 + a) s =
    if s.busy then consumeDraw (respond (.byte ((nextDraw s).setWidth 8)) s)
    else respond (.byte (obufByte s a)) s := by
  simp only [rd8, hostAccess, accessAddr, busTarget_obuf hc h, accessFits, accessWidth, readTarget,
    bufferValue, drawnValue]
  rfl

/-- A 32-bit read of OBUF. -/
theorem rd32_obuf (h : a < obufSize s.cfg) (h4 : a % 4 = 0) : rd32 (0x80000 + a) s =
    if s.busy then consumeDraw (respond (.word (nextDraw s)) s)
    else respond (.word (be32At (obufByte s) a)) s := by
  simp only [rd32, hostAccess, accessAddr, busTarget_obuf hc h, accessFits, accessWidth, readTarget,
    bufferValue, drawnValue, h4]
  rfl

end Buffers

end Sys2Proof.Machine
end

