-- ==== Sys2Proof/Laws/Bytes.lean ====
section
/-! SUPPORT. The laws of byte order and of reading byte strings. -/

namespace Sys2Proof.Machine

/-- Packing the four bytes of a word gives the word. -/
@[simp] theorem be32_byteOf (v : Word) : be32 (byteOf v 0) (byteOf v 1) (byteOf v 2) (byteOf v 3) = v := by
  simp only [be32, byteOf]
  ext i hi
  simp only [BitVec.getElem_append, BitVec.getElem_extractLsb']
  grind

/-- The bytes of a packed word. -/
theorem byteOf_be32 (b0 b1 b2 b3 : Byte) :
    byteOf (be32 b0 b1 b2 b3) 0 = b0 ∧ byteOf (be32 b0 b1 b2 b3) 1 = b1 ∧
    byteOf (be32 b0 b1 b2 b3) 2 = b2 ∧ byteOf (be32 b0 b1 b2 b3) 3 = b3 := by
  refine ⟨?_, ?_, ?_, ?_⟩ <;>
  · simp only [be32, byteOf]
    ext i hi
    simp only [BitVec.getElem_extractLsb', BitVec.getLsbD_append]
    grind

@[simp] theorem byteOf_be32_zero (b0 b1 b2 b3 : Byte) : byteOf (be32 b0 b1 b2 b3) 0 = b0 :=
  (byteOf_be32 b0 b1 b2 b3).1

@[simp] theorem byteOf_be32_one (b0 b1 b2 b3 : Byte) : byteOf (be32 b0 b1 b2 b3) 1 = b1 :=
  (byteOf_be32 b0 b1 b2 b3).2.1

@[simp] theorem byteOf_be32_two (b0 b1 b2 b3 : Byte) : byteOf (be32 b0 b1 b2 b3) 2 = b2 :=
  (byteOf_be32 b0 b1 b2 b3).2.2.1

@[simp] theorem byteOf_be32_three (b0 b1 b2 b3 : Byte) : byteOf (be32 b0 b1 b2 b3) 3 = b3 :=
  (byteOf_be32 b0 b1 b2 b3).2.2.2

@[simp] theorem bytesBe32_length (v : Word) : (bytesBe32 v).length = 4 := rfl

/-- The four bytes packed into a word, as a byte string. -/
@[simp] theorem bytesBe32_be32 (b0 b1 b2 b3 : Byte) :
    bytesBe32 (be32 b0 b1 b2 b3) = [b0, b1, b2, b3] := by simp [bytesBe32]

/-- A word is determined by its bytes. -/
theorem bytesBe32_injective {v w : Word} (h : bytesBe32 v = bytesBe32 w) : v = w := by
  simp only [bytesBe32, List.cons.injEq, and_true] at h
  rw [← be32_byteOf v, ← be32_byteOf w, h.1, h.2.1, h.2.2.1, h.2.2.2]

@[simp] theorem memRead_length (f : Nat → Byte) (a n : Nat) : (memRead f a n).length = n := by
  induction n generalizing a with
  | zero => rfl
  | succ n ih => simp [memRead, ih]

/-- Byte `i` of a read string is the buffer's byte `i` further on. -/
theorem memRead_getElem? (f : Nat → Byte) (a n i : Nat) (h : i < n) :
    (memRead f a n)[i]? = some (f (a + i)) := by
  induction n generalizing a i with
  | zero => omega
  | succ n ih =>
    cases i with
    | zero => rfl
    | succ i =>
      simp only [memRead, List.getElem?_cons_succ]
      rw [ih (a + 1) i (by omega)]
      congr 2
      omega

/-- A read splits at any point. -/
theorem memRead_add (f : Nat → Byte) (a m n : Nat) :
    memRead f a (m + n) = memRead f a m ++ memRead f (a + m) n := by
  induction m generalizing a with
  | zero => simp [memRead]
  | succ m ih =>
    rw [show m + 1 + n = (m + n) + 1 by omega]
    simp only [memRead, List.cons_append, ih]
    rw [show a + 1 + m = a + (m + 1) by omega]

/-- Reads agree where the buffers do. -/
theorem memRead_congr {f g : Nat → Byte} {a b n : Nat}
    (h : ∀ i, i < n → f (a + i) = g (b + i)) : memRead f a n = memRead g b n := by
  induction n generalizing a b with
  | zero => rfl
  | succ n ih =>
    simp only [memRead]
    rw [show f a = g b from h 0 (by omega), ih (fun i hi => ?_)]
    have := h (i + 1) (by omega)
    rwa [show a + 1 + i = a + (i + 1) by omega, show b + 1 + i = b + (i + 1) by omega]

/-- A read string, by its bytes. -/
theorem memRead_eq_iff (f : Nat → Byte) (a : Nat) (bs : List Byte) :
    memRead f a bs.length = bs ↔ ∀ i, i < bs.length → bs[i]? = some (f (a + i)) := by
  constructor
  · intro h i hi
    rw [← memRead_getElem? f a bs.length i hi, h]
  · intro h
    apply List.ext_getElem?
    intro i
    by_cases hi : i < bs.length
    · rw [memRead_getElem? f a _ i hi, h i hi]
    · simp [Nat.le_of_not_lt hi]

/-- A word read from a buffer, as the byte string it packs. -/
theorem bytesBe32_be32At (f : Nat → Byte) (a : Nat) : bytesBe32 (be32At f a) = memRead f a 4 := by
  simp [be32At, memRead]

end Sys2Proof.Machine
end

