-- ==== Sys2Proof/Laws/Exec.lean ====
section
/-! SUPPORT. The laws of the commands' shared operations: completion, the record parser, the scan of a
container, the descriptor table. -/

namespace Sys2Proof.Machine

open Sys2Proof.Safety

/-- `finish` in the terms of the claims. -/
theorem finish_eq (s : State) : finish s = succeeded s := rfl

/-- `fail` in the terms of the claims. -/
theorem failWith_eq (e : Failure) (s : State) :
    failWith e s = failed (failureCode e) (failureField e) s := by
  cases e <;> rfl

/-- A failure of a cursor command in the terms of the claims. -/
theorem cursorFail_eq (e : Failure) (pos : Word) (s : State) :
    cursorFail e pos s =
      failed (failureCode e) (failureField e) { s with errpos := pos, cerr := true } := by
  cases e <;> rfl

/-- A failure of VALIDATE in the terms of the claims. -/
theorem validateFail_eq (e : Failure) (pos : Word) (s : State) :
    validateFail e pos s =
      failed (failureCode e) (failureField e) { s with errpos := pos, count := 0, cerr := true } := by
  cases e <;> rfl

/-- Every command answers a next state. -/
theorem exec_next (i : Instr) (s : State) : ∃ t, exec i s = .next t := by
  cases i <;> exact ⟨_, rfl⟩

/-- The engine's turn answers a next state. -/
theorem engineTurn_next (s : State) : ∃ t, engineTurn s = .next t := by
  simp only [engineTurn, runLatched]
  split
  · split
    · exact exec_next _ _
    · exact ⟨_, rfl⟩
  · exact ⟨_, rfl⟩

/-! ### The record parser -/

/-- A parsed record ends where the next one starts, inside the input. -/
theorem decodeAt_ok {f : Nat → Byte} {c e next : Nat} {r : Record} (h : decodeAt f c e = .ok r next) :
    r.len = be32At f c ∧ r.tag = be32At f (c + 4) ∧ r.poff = c + 8 ∧
    r.stored = be32At f (c + 8 + r.len.toNat) ∧
    r.computed = crc32 (memRead f (c + 4) (4 + r.len.toNat)) ∧ r.computed = r.stored ∧
    next = c + 12 + r.len.toNat ∧ 12 + r.len.toNat ≤ e - c := by
  simp only [decodeAt] at h
  split at h
  · cases h
  · split at h
    · cases h
    · split at h
      · cases h
      · split at h
        · cases h
        · split at h
          · cases h
          · next h4 hne =>
            cases h
            refine ⟨rfl, rfl, rfl, rfl, ?_, not_not.1 hne, rfl, ?_⟩
            · rw [memRead_add]
            · show 12 + (be32At f c).toNat ≤ e - c
              omega

/-- A record that parses, forwards. -/
theorem decodeAt_of_valid {f : Nat → Byte} {c e : Nat} (h : 12 + (be32At f c).toNat ≤ e - c)
    (hk : crc32 (memRead f (c + 4) (4 + (be32At f c).toNat)) = be32At f (c + 8 + (be32At f c).toNat)) :
    decodeAt f c e = .ok
      { len := be32At f c, tag := be32At f (c + 4), stored := be32At f (c + 8 + (be32At f c).toNat)
        computed := be32At f (c + 8 + (be32At f c).toNat), poff := c + 8 }
      (c + 12 + (be32At f c).toNat) := by
  rw [memRead_add] at hk
  simp only [decodeAt]
  rw [if_neg (by omega), if_neg (by omega), if_neg (by omega), if_neg (by omega), if_neg (by simp [hk])]
  simp only [hk]

/-! ### The scan of a container -/

/-- Where a path of records stops lies between its start and the end of the input. -/
theorem recordPath_le {f : Nat → Byte} {e : Nat} {recs : List (Nat × Record)} {c stop : Nat}
    (h : RecordPath f e c recs stop) (hc : c ≤ e) :
    c + 12 * recs.length ≤ stop ∧ stop ≤ e := by
  induction recs generalizing c with
  | nil =>
    cases h
    exact ⟨by simp, hc⟩
  | cons p recs ih =>
    obtain ⟨-, next, hd, hp⟩ := h
    have hn := (decodeAt_ok hd).2.2.2.2.2.2
    have := ih hp (by omega)
    simp only [List.length_cons]
    omega

/-- The scan finds the records of a path that reaches the end. -/
theorem scan_of_path {f : Nat → Byte} {e : Nat} {recs : List (Nat × Record)} {c fuel : Nat}
    (h : RecordPath f e c recs e) (hc : c ≤ e) (hf : e - c ≤ fuel) :
    scan f e fuel c = .records recs := by
  induction recs generalizing c fuel with
  | nil =>
    cases h
    cases fuel <;> simp [scan]
  | cons p recs ih =>
    obtain ⟨hpos, next, hd, hp⟩ := h
    have hn := (decodeAt_ok hd).2.2.2.2.2.2
    cases fuel with
    | zero => omega
    | succ fuel =>
      simp only [scan]
      rw [if_neg (by omega), hd]
      simp only [ih (fuel := fuel) hp (by omega) (by omega), scanCons, ← hpos]

/-- The scan finds the bad record at the end of a path. -/
theorem scan_of_bad {f : Nat → Byte} {e : Nat} {recs : List (Nat × Record)} {c pos fuel : Nat}
    {b : BadRecord} (h : RecordPath f e c recs pos) (hc : c ≤ e) (hpos : pos ≠ e)
    (hb : decodeAt f pos e = .bad b) (hf : e - c ≤ fuel) : scan f e fuel c = .bad pos b := by
  induction recs generalizing c fuel with
  | nil =>
    cases h
    cases fuel with
    | zero => omega
    | succ fuel =>
      simp only [scan]
      rw [if_neg hpos, hb]
  | cons p recs ih =>
    obtain ⟨-, next, hd, hp⟩ := h
    have hn := (decodeAt_ok hd).2.2.2.2.2.2
    cases fuel with
    | zero => omega
    | succ fuel =>
      simp only [scan]
      rw [if_neg (by omega), hd]
      simp only [ih (fuel := fuel) hp (by omega) (by omega), scanCons]

/-- What the scan answers is a path of records: to the end, or to a record that does not parse. -/
theorem scan_cases (f : Nat → Byte) (e : Nat) {c fuel : Nat} (hc : c ≤ e) (hf : e - c ≤ fuel) :
    (∃ recs, scan f e fuel c = .records recs ∧ RecordPath f e c recs e) ∨
    (∃ recs pos b, scan f e fuel c = .bad pos b ∧ RecordPath f e c recs pos ∧ pos ≠ e ∧
      decodeAt f pos e = .bad b) := by
  induction fuel generalizing c with
  | zero =>
    have : c = e := by omega
    exact .inl ⟨[], rfl, this⟩
  | succ fuel ih =>
    simp only [scan]
    by_cases hce : c = e
    · rw [if_pos hce]
      exact .inl ⟨[], rfl, hce⟩
    · rw [if_neg hce]
      cases hd : decodeAt f c e with
      | bad b => exact .inr ⟨[], c, b, rfl, rfl, hce, hd⟩
      | ok r next =>
        have hn := (decodeAt_ok hd).2.2.2.2.2.2
        rcases ih (c := next) (by omega) (by omega) with ⟨recs, hs, hp⟩ | ⟨recs, pos, b, hs, hp, hne, hb⟩
        · exact .inl ⟨(c, r) :: recs, by simp only [hs, scanCons], rfl, next, hd, hp⟩
        · exact .inr ⟨(c, r) :: recs, pos, b, by simp only [hs, scanCons], ⟨rfl, next, hd, hp⟩, hne, hb⟩

/-! ### Writing byte strings -/

/-- Two adjacent writes are one. -/
theorem storeBytes_append (m : Memory) (a : Nat) (xs ys : List Byte) :
    Memory.storeBytes m a (xs ++ ys) =
      Memory.storeBytes (Memory.storeBytes m a xs) (a + xs.length) ys := by
  induction xs generalizing m a with
  | nil => rfl
  | cons x xs ih =>
    simp only [List.cons_append, Memory.storeBytes, ih, List.length_cons]
    rw [show a + 1 + xs.length = a + (xs.length + 1) by omega]

@[simp] theorem descriptor_length (c : Nat) (r : Record) : (descriptor c r).length = 16 := rfl

/-- The descriptor table is written as one byte string. -/
theorem putDescriptors_eq (o : Nat) (recs : List (Nat × Record)) (s : State) :
    putDescriptors o recs s = putObuf o (recs.flatMap (fun p => descriptor p.1 p.2)) s := by
  induction recs generalizing o s with
  | nil => rfl
  | cons p recs ih =>
    obtain ⟨c, r⟩ := p
    simp only [putDescriptors, ih, List.flatMap_cons, putObuf, storeBytes_append, descriptor_length]

/-- The descriptor table's size. -/
@[simp] theorem descriptors_length (recs : List (Nat × Record)) :
    (recs.flatMap (fun p => descriptor p.1 p.2)).length = 16 * recs.length := by
  induction recs with
  | nil => rfl
  | cons p recs ih => simp only [List.flatMap_cons, List.length_append, descriptor_length, ih,
      List.length_cons]; omega

/-- A record's size. -/
@[simp] theorem recordBytes_length (len tag : Word) (data : List Byte) (crc : Word) :
    (recordBytes len tag data crc).length = 12 + data.length := by
  simp only [recordBytes, List.length_append, bytesBe32_length]; omega

@[simp] theorem srcString_length (s : State) : (srcString s).length = s.slen.toNat := by
  simp [srcString]

/-- What a written byte string leaves in OBUF. -/
theorem obufHolds_putObuf (s : State) (o : Nat) (bs : List Byte) : ObufHolds (putObuf o bs s) o bs := by
  intro i hi
  rw [obufByte_putObuf, if_pos (by omega)]
  simp [hi]

/-! ### Range checks and the signature check, as claims state them -/

/-- R143's checks on the source string. -/
theorem srcOutOfRange_iff (n : Nat) (s : State) :
    srcOutOfRange n s = true ↔ s.src.toNat + n > ibufSize s.cfg := by simp [srcOutOfRange]

/-- R143's check on the bytes a command writes. -/
theorem outOutOfRange_iff (n : Nat) (s : State) :
    outOutOfRange n s = true ↔ s.ocur.toNat + n > obufSize s.cfg := by simp [outOutOfRange]

/-- R143's checks on the cursors. -/
theorem cursorOutOfRange_iff (s : State) : cursorOutOfRange s = true ↔
    s.iend.toNat > ibufSize s.cfg ∨ s.icur.toNat > s.iend.toNat := by simp [cursorOutOfRange]

/-- A byte string in IBUF, as one read. -/
theorem ibufHolds_iff (s : State) (c : Nat) (bs : List Byte) :
    IbufHolds s c bs ↔ memRead (ibufByte s) c bs.length = bs := by
  rw [memRead_eq_iff]
  rfl

/-- The signature check. -/
theorem signatureMissing_iff (s : State) : signatureMissing s = true ↔
    s.iend.toNat - s.icur.toNat < 8 ∨ ¬ IbufHolds s s.icur.toNat signature := by
  rw [ibufHolds_iff]
  simp [signatureMissing, signature]

/-- A register that holds an offset below 2^32 holds it unchanged (44_control.md R148). -/
theorem w32_val {n : Nat} (h : n < 2 ^ 32) : (w32 n).toNat = n := by
  simp [w32]
  omega

@[simp] theorem w32_toNat (v : Word) : w32 v.toNat = v := by simp [w32]

/-! ### What the parser and the scan read -/

/-- The parser reads no byte from `e` on. -/
theorem decodeAt_congr {f g : Nat → Byte} {c e : Nat} (h : ∀ a, a < e → f a = g a) :
    decodeAt f c e = decodeAt g c e := by
  have b4 : ∀ x, x + 4 ≤ e → be32At f x = be32At g x := fun x hx => by
    simp only [be32At]
    rw [h x (by omega), h (x + 1) (by omega), h (x + 2) (by omega), h (x + 3) (by omega)]
  by_cases h4 : e - c < 4
  · simp only [decodeAt, if_pos h4]
  · have hl := b4 c (by omega)
    simp only [decodeAt, if_neg h4, hl]
    by_cases h8 : e - c < 8
    · simp only [if_pos h8]
    · have ht := b4 (c + 4) (by omega)
      simp only [if_neg h8, ht]
      split
      · rfl
      · split
        · rfl
        · rw [b4 (c + 8 + (be32At g c).toNat) (by omega),
            show memRead f (c + 4) 4 = memRead g (c + 4) 4 from
              memRead_congr (fun i hi => h _ (by omega)),
            show memRead f (c + 8) (be32At g c).toNat = memRead g (c + 8) (be32At g c).toNat from
              memRead_congr (fun i hi => h _ (by omega))]

/-- The scan reads no byte from `e` on. -/
theorem scan_congr {f g : Nat → Byte} {e : Nat} (h : ∀ a, a < e → f a = g a) (fuel c : Nat) :
    scan f e fuel c = scan g e fuel c := by
  induction fuel generalizing c with
  | zero => rfl
  | succ n ih =>
    simp only [scan, decodeAt_congr h]
    split
    · rfl
    · split <;> simp [ih]

/-- The checksum register over a string in two parts. -/
theorem crcBytes_append (c : Word) (xs ys : List Byte) :
    crcBytes c (xs ++ ys) = crcBytes (crcBytes c xs) ys := by
  induction xs generalizing c with
  | nil => rfl
  | cons x xs ih => exact ih _

/-! ### Cursors -/

/-- All a command does to the cursors (10_state.md R33, 44_control.md R148): IEND stays; OCUR stays or
advances inside OBUF; ICUR stays or advances up to IEND. -/
theorem exec_cursors (i : Instr) (s t : State) (h : exec i s = .next t) :
    t.iend = s.iend ∧
    (t.ocur = s.ocur ∨ ∃ n, t.ocur = w32 (s.ocur.toNat + n) ∧ s.ocur.toNat + n ≤ obufSize s.cfg) ∧
    (t.icur = s.icur ∨ ∃ n, t.icur = w32 n ∧ s.icur.toNat ≤ n ∧ n ≤ s.iend.toNat ∧
      s.iend.toNat ≤ ibufSize s.cfg) := by
  cases i <;> simp only [exec, execNop, execTagstr, execCrc, execEncode, execDecode, execSigchk,
    execSigemit, execValidate, Host.Outcome.next.injEq, putDescriptors_eq] at h <;> subst h
  case nop => exact ⟨rfl, .inl rfl, .inl rfl⟩
  case tagstr => (repeat' split) <;> exact ⟨rfl, .inl rfl, .inl rfl⟩
  case crc => split <;> exact ⟨rfl, .inl rfl, .inl rfl⟩
  case encode =>
    split
    · exact ⟨rfl, .inl rfl, .inl rfl⟩
    · split
      · exact ⟨rfl, .inl rfl, .inl rfl⟩
      · next h =>
        refine ⟨rfl, .inr ⟨12 + s.slen.toNat, ?_, by simpa [outOutOfRange] using h⟩, .inl rfl⟩
        show w32 _ = _
        rw [Nat.add_assoc]
  case decode =>
    split
    · exact ⟨rfl, .inl rfl, .inl rfl⟩
    · next hc =>
      rw [cursorOutOfRange_iff] at hc
      split
      · next r next hd =>
        have := decodeAt_ok hd
        exact ⟨rfl, .inl rfl, .inr ⟨next, rfl, by omega, by omega, by omega⟩⟩
      · next b _ => cases b <;> exact ⟨rfl, .inl rfl, .inl rfl⟩
  case sigchk =>
    split
    · exact ⟨rfl, .inl rfl, .inl rfl⟩
    · next hc =>
      rw [cursorOutOfRange_iff] at hc
      split
      · exact ⟨rfl, .inl rfl, .inl rfl⟩
      · next hs =>
        rw [signatureMissing_iff] at hs
        exact ⟨rfl, .inl rfl, .inr ⟨_, rfl, by omega, by omega, by omega⟩⟩
  case sigemit =>
    split
    · exact ⟨rfl, .inl rfl, .inl rfl⟩
    · next h => exact ⟨rfl, .inr ⟨8, rfl, by simpa [outOutOfRange] using h⟩, .inl rfl⟩
  case validate =>
    split
    · exact ⟨rfl, .inl rfl, .inl rfl⟩
    · next hc =>
      rw [cursorOutOfRange_iff] at hc
      split
      · exact ⟨rfl, .inl rfl, .inl rfl⟩
      · split
        · next b _ => cases b <;> exact ⟨rfl, .inl rfl, .inl rfl⟩
        · split
          · exact ⟨rfl, .inl rfl, .inl rfl⟩
          · next h =>
            exact ⟨rfl, .inr ⟨_, rfl, by simpa [outOutOfRange] using h⟩,
              .inr ⟨s.iend.toNat, (w32_toNat _).symm, by omega, by omega, by omega⟩⟩

end Sys2Proof.Machine
end

