-- ==== Sys2Proof/Laws/PerInstr.lean ====
section
/-! SUPPORT. The encoding of every instruction: RSV is zero, OP is a row of the opcode map, and the
decoder reads the instruction back (30_encoding.md R70 to R72). -/

/-- What holds of the encoding of each instruction. -/
def Sys2Proof.Laws.Encoding.Statement (i : Sys2Proof.Instr) : Prop :=
  Sys2Proof.rsvField (Sys2Proof.encode i) = 0 ∧ (Sys2Proof.opField (Sys2Proof.encode i)).toNat < 8 ∧
  Sys2Proof.decodeTableWord 32 (Sys2Proof.encode i).toNat = some i

theorem Sys2Proof.Laws.Encoding.nop : Sys2Proof.Laws.Encoding.Statement .nop := by
  unfold Sys2Proof.Laws.Encoding.Statement; decide

theorem Sys2Proof.Laws.Encoding.tagstr : Sys2Proof.Laws.Encoding.Statement .tagstr := by
  unfold Sys2Proof.Laws.Encoding.Statement; decide

theorem Sys2Proof.Laws.Encoding.crc : Sys2Proof.Laws.Encoding.Statement .crc := by
  unfold Sys2Proof.Laws.Encoding.Statement; decide

theorem Sys2Proof.Laws.Encoding.encode : Sys2Proof.Laws.Encoding.Statement .encode := by
  unfold Sys2Proof.Laws.Encoding.Statement; decide

theorem Sys2Proof.Laws.Encoding.decode : Sys2Proof.Laws.Encoding.Statement .decode := by
  unfold Sys2Proof.Laws.Encoding.Statement; decide

theorem Sys2Proof.Laws.Encoding.sigchk : Sys2Proof.Laws.Encoding.Statement .sigchk := by
  unfold Sys2Proof.Laws.Encoding.Statement; decide

theorem Sys2Proof.Laws.Encoding.sigemit : Sys2Proof.Laws.Encoding.Statement .sigemit := by
  unfold Sys2Proof.Laws.Encoding.Statement; decide

theorem Sys2Proof.Laws.Encoding.validate : Sys2Proof.Laws.Encoding.Statement .validate := by
  unfold Sys2Proof.Laws.Encoding.Statement; decide
end

