-- ==== Sys2Proof/Tests/Slice0.lean ====
section
/-! SUPPORT. Tests from the spec's own vectors (95_test_vectors.md) and, for each statement with
hypotheses, a concrete state and operands that meet them. -/

namespace Sys2Proof.Tests

/- One thread: the evaluations below would else start a thread each, and their stacks fill the memory. -/
set_option Elab.async false

open Sys2Proof Sys2Proof.Machine Sys2Proof.Safety

/-! ### Well-formedness: a legal instance, and an ill-formed one for each check -/

theorem test_wf_reference : Config.reference.wellFormed = true := by decide

theorem test_wf_largest : (Config.mk 18 4 0xFFF00000 7).wellFormed = true := by decide

theorem test_illformed_ibuf_small : (Config.mk 3 12 0 0).wellFormed = false := by decide

theorem test_illformed_ibuf_large : (Config.mk 19 12 0 0).wellFormed = false := by decide

theorem test_illformed_obuf_small : (Config.mk 12 3 0 0).wellFormed = false := by decide

theorem test_illformed_obuf_large : (Config.mk 12 19 0 0).wellFormed = false := by decide

theorem test_illformed_base : (Config.mk 12 12 0x80000 0).wellFormed = false := by decide

/-- A command word has no operand fields (30_encoding.md R70), so no instruction is ill-formed. -/
theorem test_wf_instr : ∀ i ∈ [Instr.nop, .tagstr, .crc, .encode, .decode, .sigchk, .sigemit, .validate],
    i.wellFormed = true := by decide

/-! ### Decoding: each word written bit by bit, RSV in bits 31:8 and OP in bits 7:0 (30_encoding.md R70, R72) -/

theorem test_decode_nop : decode 0b000000000000000000000000_00000000 = .ok .nop := by decide

theorem test_decode_tagstr : decode 0b000000000000000000000000_00000001 = .ok .tagstr := by decide

theorem test_decode_crc : decode 0b000000000000000000000000_00000010 = .ok .crc := by decide

theorem test_decode_encode : decode 0b000000000000000000000000_00000011 = .ok .encode := by decide

theorem test_decode_decode : decode 0b000000000000000000000000_00000100 = .ok .decode := by decide

theorem test_decode_sigchk : decode 0b000000000000000000000000_00000101 = .ok .sigchk := by decide

theorem test_decode_sigemit : decode 0b000000000000000000000000_00000110 = .ok .sigemit := by decide

theorem test_decode_validate : decode 0b000000000000000000000000_00000111 = .ok .validate := by decide

/-- The first and the last reserved operation code (30_encoding.md R72). -/
theorem test_decode_reserved_op : decode 0b000000000000000000000000_00001000 = .error .reservedOp ∧
    decode 0b000000000000000000000000_11111111 = .error .reservedOp := by decide

/-- The lowest and the highest reserved bit (vector V9). -/
theorem test_decode_reserved_bit : decode 0b000000000000000000000001_00000100 = .error .reservedBits ∧
    decode 0b100000000000000000000000_00000011 = .error .reservedBits := by decide

theorem test_table_word : decodeTableWord 32 7 = some .validate ∧ decodeTableWord 32 8 = none ∧
    decodeTableWord 40 (2 ^ 32 + 7) = none := by decide

/-! ### Small states -/

/-- Bytes of a container's signature. -/
def sig : List Byte := [0x89, 0x50, 0x4E, 0x47, 0x0D, 0x0A, 0x1A, 0x0A]

/-- The record of an empty IEND chunk (vector V4). -/
def iend : List Byte := [0x00, 0x00, 0x00, 0x00, 0x49, 0x45, 0x4E, 0x44, 0xAE, 0x42, 0x60, 0x82]

/-- That record as the parser gives it, found at `c`. -/
def iendRecord (c : Nat) : Record :=
  { len := 0, tag := 0x49454E44, stored := 0xAE426082, computed := 0xAE426082, poff := c + 8 }

/-- Reset, with bytes at the start of IBUF and IEND at their end. -/
def input (bs : List Byte) : State :=
  putIbuf 0 bs { State.reset with iend := w32 bs.length }

/-- A command accepted in `s`, the engine's turn next. -/
def issue (i : Instr) (s : State) : State := s.withFetchWord 32 (encode i).toNat

/-- The state after one step. -/
def after (s : State) : State := nextOr s (step s)

/-! ### One step of each instruction (95_test_vectors.md) -/

/-- Vector V9. -/
theorem test_nop_completes :
    regValue .status (after (issue .nop State.reset)) = 0x00000402 := by decide +kernel

/-- The example of 44_control.md R145: NOP clears a previous error and leaves CERR. -/
theorem test_nop_keeps_cerr :
    regValue .status (after (issue .nop (after (issue .decode State.reset)))) = 0x00000802 := by
  decide +kernel

/-- The example of 40_tag.md R108. -/
theorem test_tagstr_letters :
    let s := after (issue .tagstr { input [0x52, 0x75, 0x53, 0x74] with slen := 4 })
    s.tag = 0x52755374 ∧ regValue .tflags s = 0x000001DF ∧ s.ecode = 0 := by decide +kernel

/-- Example E1: a digit is no letter. -/
theorem test_tagstr_digit :
    let s := after (issue .tagstr { input [0x52, 0x75, 0x31, 0x74] with slen := 4, iend := 0 })
    regValue .status s = 0x00000416 ∧ s.tag = 0 := by decide +kernel

/-- Vector V3: the check value of CRC-32. -/
theorem test_crc_check_value :
    (after (issue .crc { input [0x31, 0x32, 0x33, 0x34, 0x35, 0x36, 0x37, 0x38, 0x39] with
      slen := 9 })).ccrc = 0xCBF43926 := by decide +kernel

/-- Vector V3: the range check does not wrap. -/
theorem test_crc_no_wrap :
    regValue .status (after (issue .crc { State.reset with src := 0xFFFFFFFF, slen := 1 })) =
      0x00000486 := by decide +kernel

/-- Vector V4: "hi" under the tag "ruSt". -/
theorem test_encode_record :
    let s := after (issue .encode { input [0x68, 0x69] with tag := 0x72755374, slen := 2, ocur := 8 })
    s.ocur = 22 ∧ memRead (obufByte s) 8 14 =
      [0x00, 0x00, 0x00, 0x02, 0x72, 0x75, 0x53, 0x74, 0x68, 0x69, 0xD5, 0x10, 0x3A, 0x45] := by
  decide +kernel

/-- Vector V4: one byte short of room. -/
theorem test_encode_no_room :
    let s := after (issue .encode { State.reset with tag := 0x49454E44, ocur := 4085 })
    regValue .status s = 0x00000486 ∧ s.obuf = [] ∧ s.ocur = 4085 := by decide +kernel

/-- Vector V5: the IEND record, then one byte more. -/
theorem test_decode_record :
    let s := after (issue .decode (input (iend ++ [0x00])))
    regValue .status s = 0x00000002 ∧ s.icur = 12 ∧ s.rtag = 0x49454E44 ∧ s.ccrc = 0xAE426082 ∧
    s.poff = 8 := by decide +kernel

/-- Vector V5: the data field short. -/
theorem test_decode_truncated :
    let s := after (issue .decode (input [0x00, 0x00, 0x00, 0x02, 0x72, 0x75, 0x53, 0x74, 0x68]))
    regValue .status s = 0x00000A26 ∧ s.icur = 0 ∧ s.rlen = 2 ∧ s.rtag = 0x72755374 := by
  decide +kernel

/-- Vector V6. -/
theorem test_sigchk_ok :
    let s := after (issue .sigchk (input sig))
    regValue .status s = 0x00000402 ∧ s.icur = 8 := by decide +kernel

/-- Vector V6: the last byte is wrong. -/
theorem test_sigchk_bad :
    let s := after (issue .sigchk (input [0x89, 0x50, 0x4E, 0x47, 0x0D, 0x0A, 0x1A, 0x0B]))
    regValue .status s = 0x00000846 ∧ s.icur = 0 := by decide +kernel

/-- Vector V7: the signature fits exactly. -/
theorem test_sigemit_fits :
    let s := after (issue .sigemit { State.reset with ocur := 4088 })
    s.ocur = 4096 ∧ memRead (obufByte s) 4088 8 = sig := by decide +kernel

/-- Vector V7: one byte short of room. -/
theorem test_sigemit_no_room :
    regValue .status (after (issue .sigemit { State.reset with ocur := 4089 })) = 0x00000486 := by
  decide +kernel

/-- Vector V8: one record. -/
theorem test_validate_one :
    let s := after (issue .validate { input (sig ++ iend) with ocur := 4080 })
    s.count = 1 ∧ s.icur = 20 ∧ s.ocur = 4096 ∧ memRead (obufByte s) 4080 16 =
      [0x00, 0x00, 0x00, 0x08, 0x00, 0x00, 0x00, 0x00, 0x49, 0x45, 0x4E, 0x44, 0xAE, 0x42, 0x60, 0x82] := by
  decide +kernel

/-- Vector V8: three bytes after the last record. -/
theorem test_validate_trailing :
    let s := after (issue .validate (input (sig ++ iend ++ [0x00, 0x00, 0x00])))
    regValue .status s = 0x00000826 ∧ s.errpos = 20 ∧ s.count = 0 ∧ s.obuf = [] := by decide +kernel

/-- Vector V9: an illegal word, CSTATE MORE. -/
theorem test_illegal_word :
    let s := after ({ State.reset with iend := 4 }.withFetchWord 32 0x08)
    regValue .status s = 0x00000076 ∧ s.icur = 0 := by decide +kernel

/-! ### Host accesses (vector V10) -/

theorem test_caps : (rd32 0x04 State.reset).resp = .word 0x00010C0C := by decide +kernel

theorem test_byte_lanes :
    (rd8 0x40002 (wr32 0x40000 0x52755374 State.reset)).resp = .byte 0x53 := by decide +kernel

theorem test_cursor_beyond :
    (rd32 0x0C (wr32 0x28 5 State.reset)).resp = .word 0x00000C00 := by decide +kernel

/-- Program P6, first outcome: a write that comes before the engine's step is dropped and sets OVR. -/
theorem test_overrun :
    let s := wr32 0x20 5 (wr32 0x10 0 State.reset)
    s.slen = 0 ∧ regValue .status (after s) = 0x0000040A := by decide +kernel

/-- Every command answers a next state, so `nextOr` gives it. -/
theorem exec_eq (s u : State) (i : Instr) : exec i s = .next (nextOr u (exec i s)) := by cases i <;> rfl

/-- Every step answers a next state, so `after` gives it. -/
theorem step_eq (s : State) : step s = .next (after s) := by
  have h : ∃ t, step s = .next t := by
    simp only [step]
    split
    · exact engineTurn_next s
    · simp only [applyInput]
      split
      · exact ⟨_, rfl⟩
      · split
        · exact ⟨_, rfl⟩
        · exact engineTurn_next _
  obtain ⟨t, h⟩ := h
  simp only [after, h, nextOr]

/-! ### Witnesses: for each statement with hypotheses, a state and operands that meet them -/

/-- Reset with a command in flight. -/
def busyState : State := { State.reset with busy := true }

theorem wit_OpcodeMapDecodes : 8 ≤ (0x08 : BitVec 8).toNat ∧ 8 ≤ (0xFF : BitVec 8).toNat := by decide

theorem wit_IllegalWordsComplete :
    ((0x100 : Word).extractLsb' 8 24 ≠ 0 ∨ 8 ≤ ((0x100 : Word).extractLsb' 0 8).toNat) ∧
    ((0x08 : Word).extractLsb' 8 24 ≠ 0 ∨ 8 ≤ ((0x08 : Word).extractLsb' 0 8).toNat) ∧
    State.reset.busy = false ∧ { busyState with latch := 0x08 }.busy = true ∧
    { busyState with latch := 0x08 }.latch = 0x08 := by decide

theorem wit_StepRunsLatchedCommand :
    let s := { busyState with latch := 7 }
    let t := { s with inputs := [engineInput, engineInput] }
    (s.busy = true ∧ decode s.latch = .ok .validate ∧ s.inputs = []) ∧
    t.busy = true ∧ decode t.latch = .ok .validate ∧ t.inputs = engineInput :: [engineInput] := by decide

/-- The lowest reserved bit with no input waiting, the lowest reserved OP at the engine's turn. -/
theorem wit_StepRunsLatchedCommand_illegal :
    let s := { busyState with latch := 0x100 }
    let t := { busyState with latch := 0x08, inputs := [engineInput] }
    (s.busy = true ∧ s.latch.extractLsb' 8 24 ≠ 0 ∧ s.inputs = []) ∧
    t.busy = true ∧ 8 ≤ (t.latch.extractLsb' 0 8).toNat ∧ t.inputs = engineInput :: [] := by decide

theorem wit_StepServesInputs :
    let a : Access := .read .w32 0
    { State.reset with inputs := [⟨false, .host a⟩] }.inputs = ⟨false, .host a⟩ :: [] ∧
    (State.reset.busy = false ∧
      { State.reset with inputs := [engineInput] }.inputs = engineInput :: []) ∧
    State.reset.busy = false ∧ State.reset.inputs = [] := by decide

theorem wit_IdAndCapsAreFixed :
    State.reset.cfg.wellFormed = true ∧ step State.reset = .next State.reset ∧
    (Config.mk 4 18 0 0).wellFormed = true ∧ (Config.mk 18 4 0 0).wellFormed = true :=
  ⟨by decide, rfl, by decide, by decide⟩

theorem wit_ResetOverridesEverything :
    { busyState with inputs := [⟨true, .engine⟩] }.inputs = ⟨true, .engine⟩ :: [] ∧
    (⟨true, .engine⟩ : Input).rst = true := by decide

theorem wit_ResetIsIdleAndLegal :
    (Config.mk 4 4 0 0).wellFormed = true ∧ (Config.mk 18 18 (2 ^ 20) 0).wellFormed = true := by decide

theorem wit_StepKeepsInvariant : Safety.Inv (issue .nop State.reset) ∧
    step (issue .nop State.reset) = .next (after (issue .nop State.reset)) := by
  refine ⟨?_, step_eq _⟩
  unfold Safety.Inv
  decide +kernel

theorem wit_AcceptedCommandsComplete :
    let s := { busyState with inputs := [⟨false, .host (.read .w32 0x0C)⟩, engineInput] }
    s.busy = true ∧ ∀ i ∈ s.inputs, i.rst = false := by decide

theorem wit_CommandAcceptance : State.reset.busy = false ∧ busyState.busy = true := by decide

theorem wit_WritesDuringBusyAreDropped :
    (busyState.busy = true ∧ busyState.cfg.wellFormed = true ∧
      0x2C ∈ [0x10, 0x14, 0x1C, 0x20, 0x24, 0x28, 0x2C] ∧
      4095 < ibufSize busyState.cfg ∧ (4092 < ibufSize busyState.cfg ∧ 4092 % 4 = 0) ∧
      4095 < obufSize busyState.cfg ∧ 4092 < obufSize busyState.cfg ∧ 4092 % 4 = 0) ∧
    0x4C ∈ [0x00, 0x04, 0x18, 0x30, 0x34, 0x38, 0x3C, 0x40, 0x44, 0x48, 0x4C] ∧
    (0x50 ≤ 0x50 ∧ 0x50 ≤ 0xFC ∧ 0x50 % 4 = 0) ∧ 0x50 ≤ 0xFC ∧ 0xFC ≤ 0xFC ∧ 0xFC % 4 = 0 := by decide

theorem wit_ReadsDuringBusyAreDraws :
    busyState.busy = true ∧ busyState.cfg.wellFormed = true ∧
    0x4C ∈ [0x14, 0x18, 0x24, 0x28, 0x30, 0x34, 0x38, 0x3C, 0x40, 0x44, 0x48, 0x4C] ∧
    4095 < ibufSize busyState.cfg ∧ (4092 < ibufSize busyState.cfg ∧ 4092 % 4 = 0) ∧
    4095 < obufSize busyState.cfg ∧ 4092 < obufSize busyState.cfg ∧ 4092 % 4 = 0 := by decide

/-- Every malformed access at the edges of its range, and the well-formed ones beside them. -/
theorem wit_MalformedAccessesGetBusErrors :
    State.reset.cfg.wellFormed = true ∧
    (∀ a ∈ [Access.read .w32 0x100, .read .w8 0x3FFFF, .read .w8 0x41000, .read .w8 0x7FFFF,
        .read .w8 0x81000, .write .w32 0xFFFFC 0, .read .w8 0x0C, .read .w32 0xFE,
        .write .w32 0x40002 0, .read .unsupported 0x40000],
      (hostAccess a State.reset).resp = .busError) ∧
    ∀ a ∈ [Access.read .w32 0xFC, .write .w8 0x40FFF 0, .write .w8 0x80FFF 0, .write .w32 0x40FFC 0,
        .read .w32 0x100000], (hostAccess a State.reset).resp ≠ .busError := by decide +kernel

theorem wit_BufferLanesAreBigEndian :
    State.reset.busy = false ∧ State.reset.cfg.wellFormed = true ∧
    (4092 < ibufSize State.reset.cfg ∧ 4092 % 4 = 0) ∧ 4095 < ibufSize State.reset.cfg ∧
    (4092 < obufSize State.reset.cfg ∧ 4092 % 4 = 0) ∧ 4095 < obufSize State.reset.cfg := by decide

theorem wit_ReadsHaveNoSideEffect : State.reset.busy = false := by decide

theorem wit_RegisterReadsWhenIdle : State.reset.busy = false ∧ busyState.busy = true ∧
    (0x50 ≤ 0x50 ∧ 0x50 ≤ 0xFC ∧ 0x50 % 4 = 0) ∧ 0x50 ≤ 0xFC ∧ 0xFC ≤ 0xFC ∧ 0xFC % 4 = 0 := by decide

theorem wit_OperandWritesWhenIdle : State.reset.busy = false := by decide

theorem wit_CursorStateValues :
    { State.reset with cerr := true }.cerr = true ∧
    (State.reset.cerr = false ∧ State.reset.icur.toNat = State.reset.iend.toNat) ∧
    (State.reset.cerr = false ∧ State.reset.icur.toNat < { State.reset with iend := 1 }.iend.toNat) ∧
    (State.reset.cerr = false ∧ { State.reset with icur := 1 }.icur.toNat > State.reset.iend.toNat) ∧
    exec .decode (input iend) = .next (nextOr State.reset (exec .decode (input iend))) ∧
    (input iend).icur.toNat ≤ (input iend).iend.toNat :=
  ⟨by decide, by decide, by decide, by decide, exec_eq _ _ _, by decide⟩

theorem wit_InterruptLineFollowsDone : State.reset.busy = false ∧
    exec .nop busyState = .next (nextOr State.reset (exec .nop busyState)) := ⟨by decide, exec_eq _ _ _⟩

/-- TAGSTR's four cases, at their edges (vector V2). -/
theorem wit_TagstrLoadsLetters :
    let at4092 : State := putIbuf 4092 [0x49, 0x45, 0x4E, 0x44] { State.reset with src := 4092, slen := 4 }
    let digit : State := { input [0x52, 0x75, 0x31, 0x74] with slen := 4 }
    (at4092.slen.toNat = 4 ∧ at4092.src.toNat + 4 ≤ ibufSize at4092.cfg ∧
      ∀ i, i < 4 → Letter (ibufByte at4092 (at4092.src.toNat + i))) ∧
    ({ State.reset with slen := 3 }.slen.toNat ≠ 4 ∧ { State.reset with slen := 5 }.slen.toNat ≠ 4) ∧
    ({ at4092 with src := 4093 }.src.toNat + 4 > ibufSize at4092.cfg) ∧
    digit.slen.toNat = 4 ∧ digit.src.toNat + 4 ≤ ibufSize digit.cfg ∧
      ∃ i, i < 4 ∧ ¬ Letter (ibufByte digit (digit.src.toNat + i)) := by
  unfold Letter
  refine ⟨by decide +kernel, by decide, by decide, by decide, by decide, 2, by decide, by decide +kernel⟩

theorem wit_CrcDetectsOneByteChanges : (0x68 : Byte) ≠ 0x69 := by decide

/-- Vector V3, the last byte of IBUF and one past it. -/
theorem wit_CrcCommandChecksumsSource :
    { State.reset with src := 4096 }.src.toNat + State.reset.slen.toNat ≤ ibufSize State.reset.cfg ∧
    { State.reset with src := 4097 }.src.toNat + State.reset.slen.toNat > ibufSize State.reset.cfg := by
  decide

/-- Vector V4: the largest OCUR that fits, one more, and a source that does not fit. -/
theorem wit_EncodeFramesRecord :
    let fits := { State.reset with ocur := 4084 }
    let source := { State.reset with src := 4095, slen := 2 }
    (fits.src.toNat + fits.slen.toNat ≤ ibufSize fits.cfg ∧
      fits.ocur.toNat + 12 + fits.slen.toNat ≤ obufSize fits.cfg) ∧
    { fits with ocur := 4085 }.ocur.toNat + 12 + fits.slen.toNat > obufSize fits.cfg ∧
    source.src.toNat + source.slen.toNat > ibufSize source.cfg := by decide

/-- The clauses of the parser at their edges: the record of "hi" under "ruSt", cut short. -/
theorem wit_RecordParserSteps :
    let bs : List Byte :=
      [0x00, 0x00, 0x00, 0x02, 0x72, 0x75, 0x53, 0x74, 0x68, 0x69, 0xD5, 0x10, 0x3A, 0x45]
    let f := fun a => bs.getD a 0
    let g := fun a => if a = 13 then 0x46 else f a
    (be32At f 0).toNat = 2 ∧ 3 - 0 < 4 ∧ (4 ≤ 4 - 0 ∧ 7 - 0 < 8) ∧ (8 ≤ 8 - 0 ∧ 9 - 0 < 8 + 2) ∧
    (8 + 2 ≤ 10 - 0 ∧ 13 - 0 < 12 + 2) ∧
    (12 + 2 ≤ 14 - 0 ∧ crc32 (memRead g 4 6) ≠ be32At g 10) ∧
    (12 + 2 ≤ 14 - 0 ∧ crc32 (memRead f 4 6) = be32At f 10) ∧
    ∀ a, a < 13 → g a = f a := by decide +kernel

/-- DECODE's seven cases (vector V5). -/
theorem wit_DecodeFollowsParser :
    { State.reset with iend := 4097 }.iend.toNat > ibufSize State.reset.cfg ∧
    { State.reset with icur := 9, iend := 8 }.icur.toNat > { State.reset with iend := 8 }.iend.toNat ∧
    (input iend).iend.toNat ≤ ibufSize (input iend).cfg ∧ (input iend).icur.toNat ≤ (input iend).iend.toNat ∧
    decodeAt (ibufByte (input iend)) 0 12 = .ok (iendRecord 0) 12 ∧
    decodeAt (ibufByte (input iend)) 0 3 = .bad .shortLength ∧
    decodeAt (ibufByte (input iend)) 0 7 = .bad (.shortType 0) ∧
    decodeAt (ibufByte (input [0, 0, 0, 2, 0x72, 0x75, 0x53, 0x74, 0x68])) 0 9 =
      .bad (.shortData 2 0x72755374) ∧
    decodeAt (ibufByte (input iend)) 0 11 = .bad (.shortCrc 0 0x49454E44) ∧
    decodeAt (ibufByte (input (iend.take 11 ++ [0x83]))) 0 12 =
      .bad (.mismatch { iendRecord 0 with stored := 0xAE426083 }) := by decide +kernel

theorem wit_DecodeAcceptsValidRecord :
    let s := input iend
    let f := ibufByte s
    let L := (be32At f s.icur.toNat).toNat
    s.iend.toNat ≤ ibufSize s.cfg ∧ s.icur.toNat + 12 + L ≤ s.iend.toNat ∧
    be32At f (s.icur.toNat + 8 + L) = crc32 (memRead f (s.icur.toNat + 4) (4 + L)) := by decide +kernel

/-- ENCODE of an empty IEND chunk, and the bytes it writes as input. -/
theorem wit_EncodeDecodeRoundTrip :
    let s := { State.reset with tag := 0x49454E44 }
    let t := nextOr s (exec .encode s)
    let u := input iend
    exec .encode s = .next t ∧ t.err = false ∧
    (∀ i, i < 12 + s.slen.toNat → ibufByte u (0 + i) = obufByte t (s.ocur.toNat + i)) ∧
    u.icur.toNat = 0 ∧ u.iend.toNat = 0 + 12 + s.slen.toNat ∧ u.iend.toNat ≤ ibufSize u.cfg :=
  ⟨exec_eq _ _ _, by decide +kernel, by decide +kernel, by decide, by decide, by decide⟩

/-- The IEND record, and a changed first byte of its type and last byte of its crc. -/
theorem wit_DecodeRejectsCorruption :
    let u := input iend
    let v := nextOr u (exec .decode u)
    exec .decode u = .next v ∧ v.err = false ∧
    ∀ a ∈ [4, 11], let x := putIbuf a [0x00] u
      x.cfg = u.cfg ∧ x.icur = u.icur ∧ x.iend = u.iend ∧ u.icur.toNat + 4 ≤ a ∧ a < v.icur.toNat ∧
      ibufByte x a ≠ ibufByte u a := ⟨exec_eq _ _ _, by decide +kernel, by decide +kernel⟩

theorem wit_DecodeRejectsCorruption_others (a b : Nat) (h : b ≠ a) :
    ibufByte (putIbuf a [0x00] (input iend)) b = ibufByte (input iend) b := by
  rw [ibufByte_putIbuf, if_neg (by simp; omega)]

theorem wit_SigchkChecksSignature :
    (let s := input sig;
      s.iend.toNat ≤ ibufSize s.cfg ∧ s.icur.toNat + 8 ≤ s.iend.toNat ∧ IbufHolds s s.icur.toNat sig) ∧
    { State.reset with iend := 4097 }.iend.toNat > ibufSize State.reset.cfg ∧
    { State.reset with icur := 1 }.icur.toNat > State.reset.iend.toNat ∧
    (let s := input (sig.take 7);
      s.iend.toNat ≤ ibufSize s.cfg ∧ s.icur.toNat ≤ s.iend.toNat ∧ s.iend.toNat - s.icur.toNat < 8) ∧
    (let s := input (sig.take 7 ++ [0x0B]);
      s.iend.toNat ≤ ibufSize s.cfg ∧ s.icur.toNat ≤ s.iend.toNat ∧ ¬ IbufHolds s s.icur.toNat sig) := by
  unfold IbufHolds
  decide +kernel

theorem wit_SigemitWritesSignature :
    { State.reset with ocur := 4088 }.ocur.toNat + 8 ≤ obufSize State.reset.cfg ∧
    { State.reset with ocur := 4089 }.ocur.toNat + 8 > obufSize State.reset.cfg := by decide

/-- One IEND record after the signature. -/
theorem path_one (s : State) (h : decodeAt (ibufByte s) 8 s.iend.toNat = .ok (iendRecord 8) 20)
    (stop : Nat) (hs : stop = 20) :
    RecordPath (ibufByte s) s.iend.toNat 8 [(8, iendRecord 8)] stop := ⟨rfl, 20, h, hs.symm⟩

theorem wit_ValidateDescribesRecords :
    let s := { input (sig ++ iend) with ocur := 4080 }
    s.iend.toNat ≤ ibufSize s.cfg ∧ s.icur.toNat + 8 ≤ s.iend.toNat ∧ IbufHolds s s.icur.toNat sig ∧
    RecordPath (ibufByte s) s.iend.toNat (s.icur.toNat + 8) [(8, iendRecord 8)] s.iend.toNat ∧
    s.ocur.toNat + 16 * [(8, iendRecord 8)].length ≤ obufSize s.cfg :=
  ⟨by decide, by decide, by unfold IbufHolds; decide +kernel, path_one _ (by decide +kernel) _ rfl, by decide⟩

/-- The range and the signature clause, and the capacity clause at its edge. -/
theorem wit_ValidateReportsFirstFailure :
    { State.reset with iend := 4097 }.iend.toNat > ibufSize State.reset.cfg ∧
    { State.reset with icur := 1 }.icur.toNat > State.reset.iend.toNat ∧
    (State.reset.iend.toNat ≤ ibufSize State.reset.cfg ∧ State.reset.icur.toNat ≤ State.reset.iend.toNat ∧
      State.reset.iend.toNat - State.reset.icur.toNat < 8) ∧
    (let s := input (sig.take 7 ++ [0x0B]);
      s.iend.toNat ≤ ibufSize s.cfg ∧ s.icur.toNat ≤ s.iend.toNat ∧ ¬ IbufHolds s s.icur.toNat sig) ∧
    (let s := { input (sig ++ iend) with ocur := 4081 };
      s.iend.toNat ≤ ibufSize s.cfg ∧ s.icur.toNat + 8 ≤ s.iend.toNat ∧ IbufHolds s s.icur.toNat sig ∧
      RecordPath (ibufByte s) s.iend.toNat (s.icur.toNat + 8) [(8, iendRecord 8)] s.iend.toNat ∧
      s.ocur.toNat + 16 * [(8, iendRecord 8)].length > obufSize s.cfg) :=
  ⟨by decide, by decide, by decide, by unfold IbufHolds; decide +kernel, by decide, by decide,
    by unfold IbufHolds; decide +kernel, path_one _ (by decide +kernel) _ rfl, by decide⟩

/-- Inputs with an IEND record and then one that does not parse, one for each way. -/
def badInputs : List (List Byte × BadRecord) :=
  [ ([0, 0, 0], .shortLength),
    ([0, 0, 0, 0, 0x49, 0x45, 0x4E], .shortType 0),
    ([0, 0, 0, 2, 0x72, 0x75, 0x53, 0x74, 0x68], .shortData 2 0x72755374),
    (iend.take 11, .shortCrc 0 0x49454E44),
    (iend.take 11 ++ [0x83], .mismatch { iendRecord 20 with stored := 0xAE426083 }) ]

theorem wit_ValidateReportsFirstFailure_records : ∀ p ∈ badInputs,
    let s := input (sig ++ iend ++ p.1)
    s.iend.toNat ≤ ibufSize s.cfg ∧ s.icur.toNat + 8 ≤ s.iend.toNat ∧
    IbufHolds s s.icur.toNat sig ∧ decodeAt (ibufByte s) 8 s.iend.toNat = .ok (iendRecord 8) 20 ∧
    20 ≠ s.iend.toNat ∧ decodeAt (ibufByte s) 20 s.iend.toNat = .bad p.2 := by
  unfold IbufHolds
  decide +kernel

/-- With `path_one` the record path to 20 that those inputs share. -/
theorem wit_ValidateReportsFirstFailure_path : ∀ p ∈ badInputs,
    let s := input (sig ++ iend ++ p.1)
    RecordPath (ibufByte s) s.iend.toNat (s.icur.toNat + 8) [(8, iendRecord 8)] 20 := by
  intro p hp
  exact path_one _ (wit_ValidateReportsFirstFailure_records p hp).2.2.2.1 _ rfl

theorem wit_ValidateIsAllOrNothing :
    (let s := input (sig ++ iend);
      let t := nextOr s (exec .validate s);
      s.cfg.wellFormed = true ∧ exec .validate s = .next t ∧ t.err = false) ∧
    (let s := input (sig ++ iend ++ [0]);
      let t := nextOr s (exec .validate s);
      s.cfg.wellFormed = true ∧ exec .validate s = .next t ∧ t.err = true ∧ t.ecode = 2) ∧
    (let t := nextOr State.reset (exec .validate State.reset);
      exec .validate State.reset = .next t ∧ t.err = true ∧ t.ecode ≠ 2 ∧ t.ecode ≠ 3) :=
  ⟨⟨by decide, exec_eq _ _ _, by decide +kernel⟩, ⟨by decide, exec_eq _ _ _, by decide +kernel⟩,
    exec_eq _ _ _, by decide +kernel⟩

theorem wit_RecordScanEnds : 8 ≤ 20 ∧ 8 ≤ 8 := by decide

theorem wit_EmptyContainerValidates :
    let s := { input sig with ocur := 4096 }
    IbufHolds s s.icur.toNat sig ∧ s.iend.toNat = s.icur.toNat + 8 ∧ s.iend.toNat ≤ ibufSize s.cfg ∧
    s.ocur.toNat ≤ obufSize s.cfg := by
  unfold IbufHolds
  decide +kernel

/-- Program P1: two chunks, the payload "hi" at IBUF offset 0. -/
theorem wit_ContainerEncodingIsConcatenation :
    let s := input [0x68, 0x69]
    let chunks : List (Word × Word × Word) := [(0x72755374, 0, 2), (0x49454E44, 0, 0)]
    s.cfg.wellFormed = true ∧ (∀ ch ∈ chunks, ch.2.1.toNat + ch.2.2.toNat ≤ ibufSize s.cfg) ∧
    s.ocur.toNat + (containerBytes (chunks.map (fun ch => (ch.1, sourceOf s ch)))).length ≤
      obufSize s.cfg := by
  refine ⟨by decide, ?_, ?_⟩
  · simp [input, putIbuf, State.reset, State.resetOf, Config.reference, ibufSize]
  · simp [containerBytes, chunkBytes, sourceOf, input, putIbuf, State.reset, State.resetOf, Config.reference,
      obufSize]

/-- Program P2: the same container as input. -/
theorem wit_ContainerRoundTrip :
    let chunks : List (Word × List Byte) := [(0x72755374, [0x68, 0x69]), (0x49454E44, [])]
    let s := input (containerBytes chunks)
    IbufHolds s s.icur.toNat (containerBytes chunks) ∧
    s.iend.toNat = s.icur.toNat + (containerBytes chunks).length ∧ s.iend.toNat ≤ ibufSize s.cfg ∧
    s.ocur.toNat + 16 * chunks.length ≤ obufSize s.cfg ∧ chunks[1]? = some (0x49454E44, []) ∧
    (1 < (2 : Nat) ∧ chunks[0]? = some (0x72755374, [0x68, 0x69])) := by
  unfold IbufHolds
  decide +kernel

/-- Each way the walk ends: EXHAUSTED beside a success, EXHAUSTED beside a full table, ERROR. -/
theorem wit_StepwiseWalkAgreesWithValidate :
    (let s := input (sig ++ iend);
      let v := nextOr s (exec .validate s);
      s.iend.toNat ≤ 20 ∧ exec .validate s = .next v ∧ v.err = false ∧
      cstate (decodeWhileMore 20 (nextOr s (exec .sigchk s))) = 1) ∧
    (let s := { input (sig ++ iend) with ocur := 4081 };
      let v := nextOr s (exec .validate s);
      exec .validate s = .next v ∧ v.err = true ∧
      cstate (decodeWhileMore 20 (nextOr s (exec .sigchk s))) = 1) ∧
    (let s := input (sig ++ iend ++ [0]);
      let v := nextOr s (exec .validate s);
      exec .validate s = .next v ∧ cstate (decodeWhileMore 21 (nextOr s (exec .sigchk s))) = 2) :=
  ⟨⟨by decide, exec_eq _ _ _, by decide +kernel⟩, ⟨exec_eq _ _ _, by decide +kernel⟩, exec_eq _ _ _,
    by decide +kernel⟩

/-- A success of each command but two, and failures. -/
theorem wit_CommandsWriteOnlyTheirRegisters :
    (∀ i ∈ [Instr.nop, .crc, .encode, .sigemit], (nextOr State.reset (exec i State.reset)).err = false) ∧
    (nextOr State.reset (exec .validate (input (sig ++ iend)))).err = false ∧
    ∀ i ∈ [Instr.tagstr, .decode, .sigchk, .validate],
      exec i State.reset = .next (nextOr State.reset (exec i State.reset)) ∧
      (nextOr State.reset (exec i State.reset)).err = true :=
  ⟨by decide +kernel, by decide +kernel, fun i hi => ⟨exec_eq _ _ _, by revert i; decide +kernel⟩⟩

theorem wit_CursorErrorFlagCauses : exec .decode State.reset =
    .next (nextOr State.reset (exec .decode State.reset)) := exec_eq _ _ _

theorem wit_FailedCommandRepeats :
    let t := nextOr State.reset (exec .decode State.reset)
    exec .decode State.reset = .next t ∧ t.err = true := ⟨exec_eq _ _ _, by decide +kernel⟩

theorem wit_CursorsNeverWrap :
    let s := { input (sig ++ iend) with ocur := 4080 }
    let t := nextOr s (exec .validate s)
    s.cfg.wellFormed = true ∧ exec .validate s = .next t ∧ t.ocur ≠ s.ocur ∧ t.icur ≠ s.icur :=
  ⟨by decide, exec_eq _ _ _, by decide +kernel⟩

theorem wit_BusyAccessesDoNotDisturb :
    busyState.busy = true ∧ exec .encode busyState = .next (nextOr State.reset (exec .encode busyState)) :=
  ⟨by decide, exec_eq _ _ _⟩

/-- One byte changed at IEND. -/
theorem wit_BytesBeyondIendAreNotRead :
    let s := input (sig ++ iend)
    let m := Memory.store s.ibuf 20 0xFF
    Instr.validate ∈ [Instr.decode, .sigchk, .validate] ∧
    (∀ a, a < s.iend.toNat → ibufByte { s with ibuf := m } a = ibufByte s a) ∧
    exec .validate s = .next (nextOr s (exec .validate s)) :=
  ⟨by decide, by decide +kernel, exec_eq _ _ _⟩

/-- A host write and a command that change a buffer byte. -/
theorem wit_WhoWritesTheBuffers :
    (let s := { input [0x00] with inputs := [⟨false, .host (.write .w8 0x40000 1)⟩] };
      s.cfg.wellFormed = true ∧ step s = .next (after s) ∧ ibufByte (after s) 0 ≠ ibufByte s 0) ∧
    (let s := { putObuf 0 [0x00] State.reset with inputs := [⟨false, .host (.write .w32 0x80000 0x01020304)⟩] };
      step s = .next (after s) ∧ obufByte (after s) 0 ≠ obufByte s 0) ∧
    (let s := issue .sigemit (putObuf 0 [0x00] State.reset);
      step s = .next (after s) ∧ obufByte (after s) 0 ≠ obufByte s 0) :=
  ⟨⟨by decide, step_eq _, by decide +kernel⟩, ⟨step_eq _, by decide +kernel⟩, step_eq _, by decide +kernel⟩

/-- A reset that changes a buffer byte, whatever the byte's free value. -/
theorem wit_WhoWritesTheBuffers_reset :
    let b := Config.ibufResetByte 1 0 + 1
    let s := { putIbuf 0 [b] State.reset with inputs := [⟨true, .engine⟩] }
    step s = .next (after s) ∧ ibufByte (after s) 0 ≠ ibufByte s 0 := by
  refine ⟨rfl, ?_⟩
  show Config.ibufResetByte 1 0 ≠ Config.ibufResetByte 1 0 + 1
  generalize Config.ibufResetByte 1 0 = x
  revert x
  decide

end Sys2Proof.Tests
end

section

namespace Sys2Proof.Machine

/-- Concatenation as arithmetic: the upper part is scaled past the lower part. -/
theorem toNat_append_eq_add {m n : Nat} (x : BitVec m) (y : BitVec n) :
    (x ++ y).toNat = x.toNat * 2 ^ n + y.toNat := by
  rw [BitVec.toNat_append, ← Nat.shiftLeft_add_eq_or_of_lt y.isLt, Nat.shiftLeft_eq]

/-- `be32` as a number: each byte at its big-endian weight (00_scope.md R10). -/
theorem be32_toNat (b0 b1 b2 b3 : Byte) : (be32 b0 b1 b2 b3).toNat =
    b0.toNat * 2 ^ 24 + b1.toNat * 2 ^ 16 + b2.toNat * 2 ^ 8 + b3.toNat := by
  simp only [be32, toNat_append_eq_add]
  omega

/-- Settles O25: the weights are those of the concatenation; the byte slices are `byteOf` at 0 to 3,
which pack back to the word by `be32_byteOf`. -/
theorem byteOrderHelpers : Obligations.ByteOrderHelpers :=
  ⟨be32_toNat, fun v => ⟨rfl, be32_byteOf v⟩⟩

end Sys2Proof.Machine
end

section

namespace Sys2Proof.Machine

open Sys2Proof.Safety

/-! ### Reads of registers that no running command writes (20_memory.md R61) -/

/-- A register that is neither engine-written nor STATUS reads its value at every time. -/
theorem readReg_of_host_written {r : Reg} (hw : engineWritten r = false) (hs : r ≠ .status) (s : State) :
    readReg r s = { s with resp := .word (regValue r s) } := by
  simp [readReg, hw, hs, respond]

/-! ### The parameters stay (00_scope.md R6, log 2) -/

@[simp] theorem putDescriptors_cfg (o : Nat) (recs : List (Nat × Record)) (s : State) :
    (putDescriptors o recs s).cfg = s.cfg := by
  rw [putDescriptors_eq, putObuf_cfg]

@[simp] theorem finish_cfg (s : State) : (finish s).cfg = s.cfg := rfl

@[simp] theorem failWith_cfg (e : Failure) (s : State) : (failWith e s).cfg = s.cfg := rfl

@[simp] theorem cursorFail_cfg (e : Failure) (pos : Word) (s : State) :
    (cursorFail e pos s).cfg = s.cfg := rfl

@[simp] theorem validateFail_cfg (e : Failure) (pos : Word) (s : State) :
    (validateFail e pos s).cfg = s.cfg := rfl

/-- No command changes the parameters, on any path. -/
theorem exec_cfg {i : Instr} {s t : State} (h : exec i s = .next t) : t.cfg = s.cfg := by
  cases i with
  | nop => cases h; rfl
  | tagstr => cases h; dsimp only; (repeat' split) <;> simp
  | crc => cases h; split <;> simp
  | encode => cases h; (repeat' split) <;> simp
  | decode => cases h; (repeat' split) <;> simp
  | sigchk => cases h; (repeat' split) <;> simp
  | sigemit => cases h; split <;> simp
  | validate => cases h; dsimp only; (repeat' split) <;> simp

/-- The engine's turn runs a command, completes an illegal word, or does nothing. -/
theorem engineTurn_cfg {s t : State} (h : engineTurn s = .next t) : t.cfg = s.cfg := by
  unfold engineTurn runLatched at h
  split at h
  · split at h
    · exact exec_cfg h
    · cases h; rfl
  · cases h; rfl

/-- A reset, a host access and the engine's turn each keep the parameters. -/
theorem applyInput_cfg {i : Input} {s t : State} (h : applyInput i s = .next t) : t.cfg = s.cfg := by
  unfold applyInput at h
  split at h
  · cases h; rfl
  · split at h
    · cases h; exact hostAccess_cfg _ _
    · exact engineTurn_cfg h

/-- No step changes the parameters, whether an input waits or not. -/
theorem step_cfg {s t : State} (h : step s = .next t) : t.cfg = s.cfg := by
  unfold step at h
  split at h
  · exact engineTurn_cfg h
  · exact (applyInput_cfg h :)

/-! ### CAPS by fields (10_state.md R37) -/

/-- The log2 of each buffer of a legal instance fits its 5-bit field. -/
theorem legal_log2_lt {c : Config} (h : c.wellFormed = true) :
    c.ibufLog2 < 2 ^ 5 ∧ c.obufLog2 < 2 ^ 5 := by
  simp only [Config.wellFormed, Config.legalLog2, Bool.and_eq_true, decide_eq_true_eq] at h
  omega

/-- CAPS as a number: VERSION = 1 at bit 16, OBUF_LOG2 at bit 8, IBUF_LOG2 at bit 0. -/
theorem capsWord_toNat {c : Config} (h : c.wellFormed = true) :
    (capsWord c).toNat = 2 ^ 16 + c.obufLog2 * 2 ^ 8 + c.ibufLog2 := by
  obtain ⟨hi, ho⟩ := legal_log2_lt h
  calc (capsWord c).toNat = 1 <<< 16 ||| (c.obufLog2 <<< 8 ||| c.ibufLog2) := by
        have hs : c.obufLog2 <<< 8 < 2 ^ 32 := by rw [Nat.shiftLeft_eq]; omega
        simp (disch := omega) [capsWord, Nat.mod_eq_of_lt, Nat.or_assoc]
    _ = 1 <<< 16 + (c.obufLog2 <<< 8 + c.ibufLog2) := by
        rw [← Nat.shiftLeft_add_eq_or_of_lt (i := 8) (by omega),
          ← Nat.shiftLeft_add_eq_or_of_lt (by rw [Nat.shiftLeft_eq]; omega)]
    _ = 2 ^ 16 + c.obufLog2 * 2 ^ 8 + c.ibufLog2 := by
        rw [Nat.shiftLeft_eq, Nat.shiftLeft_eq]; omega

/-- A field of a word is the number that shifting and reducing the word gives. -/
theorem extractLsb'_eq_ofNat {v : Word} {start len n : Nat}
    (h : v.toNat / 2 ^ start % 2 ^ len = n % 2 ^ len) :
    v.extractLsb' start len = BitVec.ofNat len n := by
  apply BitVec.eq_of_toNat_eq
  rw [BitVec.extractLsb'_toNat, Nat.shiftRight_eq_div_pow, h, BitVec.toNat_ofNat]

/-- Every field of CAPS, the zero ones between the parameters included. -/
theorem capsWord_fields {c : Config} (h : c.wellFormed = true) :
    (capsWord c).extractLsb' 0 5 = BitVec.ofNat 5 c.ibufLog2 ∧ (capsWord c).extractLsb' 5 3 = 0 ∧
    (capsWord c).extractLsb' 8 5 = BitVec.ofNat 5 c.obufLog2 ∧ (capsWord c).extractLsb' 13 3 = 0 ∧
    (capsWord c).extractLsb' 16 8 = 1 ∧ (capsWord c).extractLsb' 24 8 = 0 := by
  have hv := capsWord_toNat h
  obtain ⟨hi, ho⟩ := legal_log2_lt h
  exact ⟨extractLsb'_eq_ofNat (by omega), extractLsb'_eq_ofNat (n := 0) (by omega),
    extractLsb'_eq_ofNat (by omega), extractLsb'_eq_ofNat (n := 0) (by omega),
    extractLsb'_eq_ofNat (n := 1) (by omega), extractLsb'_eq_ofNat (n := 0) (by omega)⟩

/-- Settles O8: ID and CAPS are not engine-written, so they read their values at every time; the value of
CAPS depends on the parameters alone, which every step keeps. -/
theorem idAndCapsAreFixed : Obligations.IdAndCapsAreFixed := by
  intro s hc
  refine ⟨?_, ⟨capsWord s.cfg, ?_, capsWord_fields hc⟩, fun t h => ⟨rfl, congrArg capsWord (step_cfg h)⟩⟩
  · exact (rd32_reg s .id).trans (readReg_of_host_written rfl (by decide) s)
  · exact (rd32_reg s .caps).trans (readReg_of_host_written rfl (by decide) s)

/-- Settles O21: CTRL is written by `writeCtrl` whatever BUSY is, and is not engine-written, so it reads
`ctrlWord` at every time. -/
theorem controlHoldsInterruptEnable : Obligations.ControlHoldsInterruptEnable := by
  intro s v
  refine ⟨⟨.written, by decide, by decide, wr32_reg s .ctrl v⟩, ?_, rfl⟩
  exact (rd32_reg s .ctrl).trans (readReg_of_host_written rfl (by decide) s)

end Sys2Proof.Machine
end

section

namespace Sys2Proof.Machine

open Sys2Proof.Safety

/-! ### Writes by the register's kind (20_memory.md R60) -/

/-- CMD and the operand registers: a write during BUSY is dropped. -/
def droppedRegs : List Reg := [.cmd, .tag, .src, .slen, .ocur, .icur, .iend]

/-- The RO and COMB registers: a write is ignored at any time. -/
def ignoredRegs : List Reg :=
  [.id, .caps, .tflags, .rlen, .rtag, .rcrc, .ccrc, .poff, .count, .errpos, .rtflags]

theorem writeReg_dropped {r : Reg} (hr : r ∈ droppedRegs) {s : State} (hb : s.busy = true) (v : Word) :
    writeReg r v s = overrun s := by
  simp only [droppedRegs, List.mem_cons, List.not_mem_nil, or_false] at hr
  rcases hr with rfl | rfl | rfl | rfl | rfl | rfl | rfl <;>
    simp only [writeReg, unlessBusy_busy hb]

theorem writeReg_ignored {r : Reg} (hr : r ∈ ignoredRegs) (v : Word) (s : State) :
    writeReg r v s = s := by
  simp only [ignoredRegs, List.mem_cons, List.not_mem_nil, or_false] at hr
  rcases hr with rfl | rfl | rfl | rfl | rfl | rfl | rfl | rfl | rfl | rfl | rfl <;> rfl

/-- A write the bus answers is taken. -/
theorem taken_written (u : State) : Taken (respond .written u) u :=
  ⟨.written, by decide, by decide, rfl⟩

/-- A guarded write during BUSY is taken by the bus and dropped, whatever it would have written. -/
theorem taken_unlessBusy {s : State} (hb : s.busy = true) (f : State → State) :
    Taken (respond .written (unlessBusy f s)) { s with ovr := true } := by
  rw [unlessBusy_busy hb]
  exact taken_written (overrun s)

/-- A write to CMD or an operand register during BUSY. -/
theorem taken_wr32_dropped {s : State} (hb : s.busy = true) {off : Nat}
    (h : off ∈ droppedRegs.map regOffset) (v : Word) : Taken (wr32 off v s) { s with ovr := true } := by
  obtain ⟨r, hr, rfl⟩ := List.mem_map.mp h
  rw [wr32_reg, writeReg_dropped hr hb]
  exact taken_written (overrun s)

/-- A write to an RO or COMB register. -/
theorem taken_wr32_ignored (s : State) {off : Nat} (h : off ∈ ignoredRegs.map regOffset) (v : Word) :
    Taken (wr32 off v s) s := by
  obtain ⟨r, hr, rfl⟩ := List.mem_map.mp h
  rw [wr32_reg, writeReg_ignored hr]
  exact taken_written s

/-- Settles O14: the offsets are those of `droppedRegs` and `ignoredRegs`; every buffer write is guarded by
`unlessBusy`, and the writes to CTRL and STATUS are not. -/
theorem writesDuringBusyAreDropped : Obligations.WritesDuringBusyAreDropped := by
  refine ⟨fun s hb hc => ⟨fun off v h => taken_wr32_dropped hb h v, ?ibuf8, ?ibuf32, ?obuf8, ?obuf32,
    ?ctrl, ?status⟩, ?ignored⟩
  case ibuf8 => exact fun a b h => wr8_ibuf hc h b ▸ taken_unlessBusy hb _
  case ibuf32 => exact fun a v h h4 => wr32_ibuf hc h h4 v ▸ taken_unlessBusy hb _
  case obuf8 => exact fun a b h => wr8_obuf hc h b ▸ taken_unlessBusy hb _
  case obuf32 => exact fun a v h h4 => wr32_obuf hc h h4 v ▸ taken_unlessBusy hb _
  case ctrl => exact fun v => wr32_reg s .ctrl v ▸ taken_written (writeCtrl v s)
  case status => exact fun v => wr32_reg s .status v ▸ taken_written (writeStatus v s)
  case ignored =>
    rintro s off v (h | ⟨h, h2, h4⟩)
    · exact taken_wr32_ignored s h v
    · exact wr32_reserved s v h h2 h4 ▸ taken_written s

end Sys2Proof.Machine
end

section

namespace Sys2Proof

/-! ### The opcode map (30_encoding.md R71, R72) -/

/-- The decoder reads every instruction back from its `match` value. -/
theorem decode_encode (i : Instr) : decode (encode i) = .ok i := by cases i <;> rfl

/-- Every row compares the whole word, with a match value below 8. -/
theorem opcodeTable_rows : ∀ r ∈ opcodeTable, r.mask = BitVec.allOnes 32 ∧ r.pattern.toNat < 8 := by
  decide

/-- A word from 8 on selects no row. -/
theorem decode_of_le {w : Word} (h : 8 ≤ w.toNat) : decode w = .error (rejectReason w) := by
  have hnone : opcodeTable.find? (fun r => w &&& r.mask == r.pattern) = none := by
    refine List.find?_eq_none.mpr fun r hr heq => ?_
    obtain ⟨hmask, hlt⟩ := opcodeTable_rows r hr
    rw [hmask, BitVec.and_allOnes, beq_iff_eq] at heq
    rw [← heq] at hlt
    omega
  simp only [decode, hnone]

/-- A word that is its OP alone has RSV = 0. -/
theorem rsvField_setWidth (op : BitVec 8) : rsvField (op.setWidth 32) = 0 := by
  ext i hi
  simp [rsvField]

/-- Settles O1: the match values are the encodings; an OP from 8 on selects no row, and the reason is the
operation code because RSV = 0. -/
theorem opcodeMapDecodes : Obligations.OpcodeMapDecodes := by
  refine ⟨decode_encode .nop, decode_encode .tagstr, decode_encode .crc, decode_encode .encode,
    decode_encode .decode, decode_encode .sigchk, decode_encode .sigemit, decode_encode .validate,
    fun op hop => ?_⟩
  have hle : 8 ≤ (op.setWidth 32 : Word).toNat := by rw [BitVec.toNat_setWidth]; omega
  rw [decode_of_le hle, rejectReason, if_pos (rsvField_setWidth op)]

end Sys2Proof
end

section

namespace Sys2Proof.Machine

open Sys2Proof.Safety

/-- VALIDATE on a container whose records reach IEND and whose table fits: no range check and no signature
check fails, and the scan finds the records (43_container.md R132). -/
theorem exec_validate_of_path {s : State} {recs : List (Nat × Record)}
    (he : s.iend.toNat ≤ ibufSize s.cfg) (hc : s.icur.toNat + 8 ≤ s.iend.toNat)
    (hsig : IbufHolds s s.icur.toNat signature)
    (hpath : RecordPath (ibufByte s) s.iend.toNat (s.icur.toNat + 8) recs s.iend.toNat)
    (hfit : s.ocur.toNat + 16 * recs.length ≤ obufSize s.cfg) :
    exec .validate s = .next (succeeded
      { putObuf s.ocur.toNat (recs.flatMap (fun p => descriptor p.1 p.2)) s with
        count := w32 recs.length, icur := s.iend, cerr := false
        ocur := w32 (s.ocur.toNat + 16 * recs.length) }) := by
  have hcursor : ¬ cursorOutOfRange s = true := by rw [cursorOutOfRange_iff]; omega
  have hpresent : ¬ signatureMissing s = true := by
    rw [signatureMissing_iff]
    exact not_or.mpr ⟨by omega, not_not.mpr hsig⟩
  have hroom : ¬ outOutOfRange (16 * recs.length) s = true := by rw [outOutOfRange_iff]; omega
  have hscan := scan_of_path hpath hc le_rfl
  simp only [exec, execValidate, if_neg hcursor, if_neg hpresent, hscan, if_neg hroom,
    putDescriptors_eq, finish_eq]

/-- Settles O41: the table is one byte string written at OCUR, so OBUF holds it there and is unchanged
outside its 16 bytes per record. -/
theorem validateDescribesRecords : Obligations.ValidateDescribesRecords := by
  refine ⟨decode_encode .validate, fun s recs he hc hsig hpath hfit => ?_⟩
  refine ⟨_, exec_validate_of_path he hc hsig hpath hfit, obufHolds_putObuf _ _ _, fun a ha => ?_⟩
  refine (obufByte_putObuf _ _ s a).trans (if_neg ?_)
  rw [descriptors_length]
  omega

end Sys2Proof.Machine
end

section

namespace Sys2Proof.Machine

open Sys2Proof.Safety

/-! ### The classifier's parts as the claims state them (00_scope.md R13, 40_tag.md R101 to R105) -/

theorem isLetter_iff (b : Byte) : isLetter b = true ↔ Letter b := by
  simp [isLetter, Letter]

theorem flagBit_iff (b : Byte) : flagBit b = true ↔ b &&& 0x20 ≠ 0 := by
  simp [flagBit]

/-- The sense of CRITICAL, PUBLIC and RSVOK: a clear flag gives 1. -/
theorem not_flagBit_iff (b : Byte) : (!flagBit b) = true ↔ b &&& 0x20 = 0 := by
  simp [flagBit]

theorem tagLetter_iff (t : Word) (i : Nat) : tagLetter t i = true ↔ Letter (byteOf t i) :=
  isLetter_iff _

theorem tagAllLetters_iff (t : Word) : tagAllLetters t = true ↔
    Letter (byteOf t 0) ∧ Letter (byteOf t 1) ∧ Letter (byteOf t 2) ∧ Letter (byteOf t 3) := by
  simp only [tagAllLetters, Bool.and_eq_true, tagLetter_iff, and_assoc]

theorem tagValid_iff (t : Word) : tagValid t = true ↔
    Letter (byteOf t 0) ∧ Letter (byteOf t 1) ∧ Letter (byteOf t 2) ∧ Letter (byteOf t 3) ∧
      byteOf t 2 &&& 0x20 = 0 := by
  simp only [tagValid, Bool.and_eq_true, tagAllLetters_iff, tagRsvOk, not_flagBit_iff, and_assoc]

/-! ### Which bit holds which part (40_tag.md R106) -/

/-- A one-bit word has its bit at the one place. -/
theorem getLsbD_bitAt (b : Bool) (i j : Nat) :
    (bitAt b i).getLsbD j = (b && (decide (i < 32) && decide (i = j))) := by
  cases b with
  | false => exact BitVec.getLsbD_zero
  | true => exact BitVec.getLsbD_twoPow i j

/-- Each part of the classifier stands at its own bit and no other part reaches it. -/
theorem classify_bits (t : Word) :
    (classify t).getLsbD 0 = tagLetter t 0 ∧ (classify t).getLsbD 1 = tagLetter t 1 ∧
    (classify t).getLsbD 2 = tagLetter t 2 ∧ (classify t).getLsbD 3 = tagLetter t 3 ∧
    (classify t).getLsbD 4 = tagCritical t ∧ (classify t).getLsbD 5 = tagPublic t ∧
    (classify t).getLsbD 6 = tagRsvOk t ∧ (classify t).getLsbD 7 = tagSafe t ∧
    (classify t).getLsbD 8 = tagValid t := by
  simp only [classify, BitVec.getLsbD_or, getLsbD_bitAt]
  simp

/-- No part reaches a bit above 8. -/
theorem classify_getLsbD_above (t : Word) {j : Nat} (h : 8 < j) : (classify t).getLsbD j = false := by
  have hpart (b : Bool) {i : Nat} (hi : i ≤ 8) : (bitAt b i).getLsbD j = false := by
    simp [getLsbD_bitAt, show i ≠ j by omega]
  simp [classify, hpart]

theorem classify_upper_eq_zero (t : Word) : (classify t).extractLsb' 9 23 = 0 := by
  apply BitVec.eq_of_getLsbD_eq
  intro i hi
  rw [BitVec.getLsbD_extractLsb', classify_getLsbD_above t (by omega)]
  simp

/-- Settles O27: each bit is one named part of the classifier, and each part is read through its own
equivalence; the byte slices are `byteOf` at 0 to 3. -/
theorem classifierBits : Obligations.ClassifierBits := by
  refine ⟨fun s => ⟨rfl, rfl⟩, fun t => ?_⟩
  obtain ⟨h0, h1, h2, h3, hcritical, hpublic, hrsvok, hsafe, hvalid⟩ := classify_bits t
  dsimp only
  rw [h0, h1, h2, h3, hcritical, hpublic, hrsvok, hsafe, hvalid]
  exact ⟨tagLetter_iff t 0, tagLetter_iff t 1, tagLetter_iff t 2, tagLetter_iff t 3,
    not_flagBit_iff _, not_flagBit_iff _, not_flagBit_iff _, flagBit_iff _, tagValid_iff t,
    classify_upper_eq_zero t⟩

/-! ### TAGSTR's checks in their order (40_tag.md R108) -/

/-- The letter check on a tag read from a buffer, byte by byte. -/
theorem tagAllLetters_be32At_iff (f : Nat → Byte) (a : Nat) :
    tagAllLetters (be32At f a) = true ↔ ∀ i, i < 4 → Letter (f (a + i)) := by
  rw [tagAllLetters_iff, be32At, byteOf_be32_zero, byteOf_be32_one, byteOf_be32_two, byteOf_be32_three]
  constructor
  · rintro ⟨h0, h1, h2, h3⟩ i hi
    interval_cases i <;> assumption
  · exact fun h => ⟨h 0 (by omega), h 1 (by omega), h 2 (by omega), h 3 (by omega)⟩

/-- A string of four bytes inside IBUF: the letter check alone decides. -/
theorem exec_tagstr_of_inside {s : State} (hlen : s.slen.toNat = 4)
    (hin : s.src.toNat + 4 ≤ ibufSize s.cfg) :
    exec .tagstr s = .next (if tagAllLetters (be32At (ibufByte s) s.src.toNat)
      then succeeded { s with tag := be32At (ibufByte s) s.src.toNat } else failed 1 0 s) := by
  have hrange : ¬ srcOutOfRange 4 s = true := by rw [srcOutOfRange_iff]; omega
  simp only [exec, execTagstr, if_neg (not_not.mpr hlen), if_neg hrange, finish_eq, failWith_eq,
    failureCode, failureField]

/-- A wrong length fails before the range is looked at. -/
theorem exec_tagstr_of_length_ne {s : State} (hlen : s.slen.toNat ≠ 4) :
    exec .tagstr s = .next (failed 1 0 s) := by
  simp only [exec, execTagstr, if_pos hlen, failWith_eq, failureCode, failureField]

/-- Four bytes that do not fit fail before a byte is read. -/
theorem exec_tagstr_of_outside {s : State} (hlen : s.slen.toNat = 4)
    (hout : s.src.toNat + 4 > ibufSize s.cfg) : exec .tagstr s = .next (failed 8 0 s) := by
  simp only [exec, execTagstr, if_neg (not_not.mpr hlen), if_pos ((srcOutOfRange_iff 4 s).mpr hout),
    failWith_eq, failureCode, failureField]

/-- Settles O28: the length and the range are decided by their premises; inside IBUF the letter check is
the premise on the four bytes. -/
theorem tagstrLoadsLetters : Obligations.TagstrLoadsLetters := by
  refine ⟨decode_encode .tagstr, fun s => ⟨?letters, fun hlen => exec_tagstr_of_length_ne hlen,
    fun hlen hout => exec_tagstr_of_outside hlen hout, ?nonLetter⟩⟩
  case letters =>
    intro hlen hin hletters
    exact (exec_tagstr_of_inside hlen hin).trans
      (congrArg _ (if_pos ((tagAllLetters_be32At_iff _ _).mpr hletters)))
  case nonLetter =>
    rintro hlen hin ⟨i, hi, hnot⟩
    have hfails : ¬ tagAllLetters (be32At (ibufByte s) s.src.toNat) = true := fun hall =>
      hnot ((tagAllLetters_be32At_iff _ _).mp hall i hi)
    rw [exec_tagstr_of_inside hlen hin, if_neg hfails]

end Sys2Proof.Machine
end

section

namespace Sys2Proof.Machine

open Sys2Proof.Safety

/-! ### CRC by its range check (41_crc.md R113, 44_control.md R143) -/

/-- A source string inside IBUF, an empty one at its end included, is checksummed. -/
theorem exec_crc_of_inside {s : State} (hin : s.src.toNat + s.slen.toNat ≤ ibufSize s.cfg) :
    exec .crc s = .next (succeeded { s with ccrc := crc32 (srcString s) }) := by
  have hrange : ¬ srcOutOfRange s.slen.toNat s = true := by rw [srcOutOfRange_iff]; omega
  simp only [exec, execCrc, if_neg hrange, finish_eq]

/-- A source string that does not fit fails before a byte is read. -/
theorem exec_crc_of_outside {s : State} (hout : s.src.toNat + s.slen.toNat > ibufSize s.cfg) :
    exec .crc s = .next (failed 8 0 s) := by
  simp only [exec, execCrc, if_pos ((srcOutOfRange_iff s.slen.toNat s).mpr hout), failWith_eq,
    failureCode, failureField]

/-- Settles O32: each premise decides the range check; the checksummed bytes are the source string's by
definition. -/
theorem crcCommandChecksumsSource : Obligations.CrcCommandChecksumsSource :=
  ⟨decode_encode .crc, fun _ => ⟨exec_crc_of_inside, exec_crc_of_outside⟩⟩

end Sys2Proof.Machine
end

section

namespace Sys2Proof.Machine

open Sys2Proof.Safety

/-! ### ENCODE by its two range checks (42_chunk.md R120, 44_control.md R143) -/

/-- Payload and record fit: the record is written at OCUR as one byte string. -/
theorem exec_encode_of_fits {s : State} (hsrc : s.src.toNat + s.slen.toNat ≤ ibufSize s.cfg)
    (hout : s.ocur.toNat + 12 + s.slen.toNat ≤ obufSize s.cfg) :
    exec .encode s = .next (succeeded
      { putObuf s.ocur.toNat
          (recordBytes s.slen s.tag (srcString s) (recordCrc s.tag (srcString s))) s with
        rlen := s.slen, rtag := s.tag, rcrc := recordCrc s.tag (srcString s)
        ccrc := recordCrc s.tag (srcString s), ocur := w32 (s.ocur.toNat + 12 + s.slen.toNat) }) := by
  have hsource : ¬ srcOutOfRange s.slen.toNat s = true := by rw [srcOutOfRange_iff]; omega
  have hroom : ¬ outOutOfRange (12 + s.slen.toNat) s = true := by rw [outOutOfRange_iff]; omega
  simp only [exec, execEncode, if_neg hsource, if_neg hroom, finish_eq]

/-- A payload or a record that does not fit: both checks fail in the same way, before any write. -/
theorem exec_encode_of_outside {s : State} (h : s.src.toNat + s.slen.toNat > ibufSize s.cfg ∨
    s.ocur.toNat + 12 + s.slen.toNat > obufSize s.cfg) :
    exec .encode s = .next (failed 8 0 s) := by
  by_cases hsource : srcOutOfRange s.slen.toNat s = true
  · simp only [exec, execEncode, if_pos hsource, failWith_eq, failureCode, failureField]
  · have hroom : outOutOfRange (12 + s.slen.toNat) s = true := by
      rw [srcOutOfRange_iff] at hsource
      rw [outOutOfRange_iff]
      omega
    simp only [exec, execEncode, if_neg hsource, if_pos hroom, failWith_eq, failureCode, failureField]

/-- Settles O33: the record is one byte string written at OCUR, so OBUF holds it there and is unchanged
outside its `12 + SLEN` bytes. -/
theorem encodeFramesRecord : Obligations.EncodeFramesRecord := by
  refine ⟨decode_encode .encode, fun s => ⟨fun hsrc hout => ?_, exec_encode_of_outside⟩⟩
  refine ⟨_, exec_encode_of_fits hsrc hout, obufHolds_putObuf _ _ _, fun a ha => ?_⟩
  refine (obufByte_putObuf _ _ s a).trans (if_neg ?_)
  rw [recordBytes_length, srcString_length]
  omega

/-! ### The record parser forwards, one lemma per step (42_chunk.md R121) -/

/-- The fields the record at `c` has, where all its bytes are present. -/
def recordAt (f : Nat → Byte) (c : Nat) : Record where
  len := be32At f c
  tag := be32At f (c + 4)
  stored := be32At f (c + 8 + (be32At f c).toNat)
  computed := crc32 (memRead f (c + 4) (4 + (be32At f c).toNat))
  poff := c + 8

theorem decodeAt_of_shortLength {f : Nat → Byte} {c e : Nat} (h : e - c < 4) :
    decodeAt f c e = .bad .shortLength := by
  simp only [decodeAt, if_pos h]

theorem decodeAt_of_shortType {f : Nat → Byte} {c e : Nat} (h4 : 4 ≤ e - c) (h8 : e - c < 8) :
    decodeAt f c e = .bad (.shortType (be32At f c)) := by
  simp only [decodeAt, if_neg (Nat.not_lt.mpr h4), if_pos h8]

theorem decodeAt_of_shortData {f : Nat → Byte} {c e : Nat} (h8 : 8 ≤ e - c)
    (hdata : e - c < 8 + (be32At f c).toNat) :
    decodeAt f c e = .bad (.shortData (be32At f c) (be32At f (c + 4))) := by
  have h4 : ¬ e - c < 4 := by omega
  simp only [decodeAt, if_neg h4, if_neg (Nat.not_lt.mpr h8), if_pos hdata]

theorem decodeAt_of_shortCrc {f : Nat → Byte} {c e : Nat} (hdata : 8 + (be32At f c).toNat ≤ e - c)
    (hcrc : e - c < 12 + (be32At f c).toNat) :
    decodeAt f c e = .bad (.shortCrc (be32At f c) (be32At f (c + 4))) := by
  have h4 : ¬ e - c < 4 := by omega
  have h8 : ¬ e - c < 8 := by omega
  simp only [decodeAt, if_neg h4, if_neg h8, if_neg (Nat.not_lt.mpr hdata), if_pos hcrc]

/-- A record whose bytes are all present is decided by its checksum. -/
theorem decodeAt_of_present {f : Nat → Byte} {c e : Nat} (h : 12 + (be32At f c).toNat ≤ e - c) :
    decodeAt f c e = if (recordAt f c).computed ≠ (recordAt f c).stored
      then .bad (.mismatch (recordAt f c))
      else .ok (recordAt f c) (c + 12 + (be32At f c).toNat) := by
  have h4 : ¬ e - c < 4 := by omega
  have h8 : ¬ e - c < 8 := by omega
  have hdata : ¬ e - c < 8 + (be32At f c).toNat := by omega
  simp only [decodeAt, if_neg h4, if_neg h8, if_neg hdata, if_neg (Nat.not_lt.mpr h), recordAt,
    memRead_add]

/-- The parser reads no byte below `c`. -/
theorem decodeAt_congr_from {f g : Nat → Byte} {c e : Nat} (h : ∀ a, c ≤ a → f a = g a) :
    decodeAt f c e = decodeAt g c e := by
  have hword (a : Nat) (ha : c ≤ a) : be32At f a = be32At g a := by
    simp only [be32At]
    rw [h a ha, h (a + 1) (by omega), h (a + 2) (by omega), h (a + 3) (by omega)]
  have hread (a n : Nat) (ha : c ≤ a) : memRead f a n = memRead g a n :=
    memRead_congr fun i _ => h (a + i) (by omega)
  simp only [decodeAt, hword c le_rfl, hword (c + 4) (by omega),
    hword (c + 8 + (be32At g c).toNat) (by omega), hread (c + 4) 4 (by omega),
    hread (c + 8) (be32At g c).toNat (by omega)]

/-- The parser reads the bytes from `c` to `e` alone: with `f` below `c` and `g` from there on, it answers
as on `g`, and as on `f`. -/
theorem decodeAt_congr_between {f g : Nat → Byte} {c e : Nat} (h : ∀ a, c ≤ a → a < e → g a = f a) :
    decodeAt g c e = decodeAt f c e := by
  calc decodeAt g c e = decodeAt (fun a => if a < c then f a else g a) c e :=
        decodeAt_congr_from fun a ha => (if_neg (Nat.not_lt.mpr ha)).symm
    _ = decodeAt f c e := decodeAt_congr fun a hae => by
        split
        · rfl
        · exact h a (by omega) hae

/-- Settles O34: each range of the bytes left has its parser lemma, and the checksum decides the last one. -/
theorem recordParserSteps : Obligations.RecordParserSteps := by
  refine fun f c e hce => ⟨decodeAt_of_shortLength, decodeAt_of_shortType, decodeAt_of_shortData,
    decodeAt_of_shortCrc, fun hall hne => ?mismatch, fun hall heq => ?ok,
    fun g => decodeAt_congr_between⟩
  case mismatch => exact (decodeAt_of_present hall).trans (if_pos hne)
  case ok => exact ⟨(decodeAt_of_present hall).trans (if_neg (not_not.mpr heq)), by omega⟩

/-! ### DECODE by its range check and the parser's result (42_chunk.md R122, R123) -/

/-- Cursors out of range fail before a byte is read. -/
theorem exec_decode_of_outside {s : State}
    (h : s.iend.toNat > ibufSize s.cfg ∨ s.icur.toNat > s.iend.toNat) :
    exec .decode s = .next (failed 8 0 { s with errpos := s.icur, cerr := true }) := by
  simp only [exec, execDecode, if_pos ((cursorOutOfRange_iff s).mpr h), cursorFail_eq, failureCode,
    failureField]

section Inside

variable {s : State} (he : s.iend.toNat ≤ ibufSize s.cfg) (hc : s.icur.toNat ≤ s.iend.toNat)
include he hc

theorem cursorOutOfRange_of_inside : ¬ cursorOutOfRange s = true := by
  rw [cursorOutOfRange_iff]
  omega

/-- A parsed record: its registers, and ICUR at the next record. -/
theorem exec_decode_of_ok {r : Record} {next : Nat}
    (h : decodeAt (ibufByte s) s.icur.toNat s.iend.toNat = .ok r next) :
    exec .decode s = .next (succeeded { recordRegs r s with icur := w32 next, cerr := false }) := by
  simp only [exec, execDecode, if_neg (cursorOutOfRange_of_inside he hc), h, finish_eq]

/-- A bad record of any kind: its failure, its diagnostics, ERRPOS and CERR. -/
theorem exec_decode_of_bad {b : BadRecord}
    (h : decodeAt (ibufByte s) s.icur.toNat s.iend.toNat = .bad b) :
    exec .decode s = .next (failed (failureCode (badFailure b)) (failureField (badFailure b))
      { diagnose b s with errpos := s.icur, cerr := true }) := by
  simp only [exec, execDecode, if_neg (cursorOutOfRange_of_inside he hc), h, cursorFail_eq]

end Inside

/-- Settles O35: the cursors decide the range check; inside, each failure is `exec_decode_of_bad` at its kind
of bad record, whose failure code and diagnostics are the statement's by definition. -/
theorem decodeFollowsParser : Obligations.DecodeFollowsParser := by
  refine ⟨decode_encode .decode, fun s => ⟨exec_decode_of_outside, fun he hc => ⟨?ok, ?shortLength,
    ?shortType, ?shortData, ?shortCrc, ?mismatch⟩⟩⟩
  case ok => exact fun r next h => exec_decode_of_ok he hc h
  case shortLength => exact fun h => exec_decode_of_bad he hc h
  case shortType => exact fun len h => exec_decode_of_bad he hc h
  case shortData => exact fun len tag h => exec_decode_of_bad he hc h
  case shortCrc => exact fun len tag h => exec_decode_of_bad he hc h
  case mismatch => exact fun r h => exec_decode_of_bad he hc h

end Sys2Proof.Machine
end

section

namespace Sys2Proof.Machine

open Sys2Proof.Safety

/-! ### SIGCHK by its range check and the signature check (43_container.md R130) -/

/-- Cursors out of range fail before a byte is read. -/
theorem exec_sigchk_of_outside {s : State}
    (h : s.iend.toNat > ibufSize s.cfg ∨ s.icur.toNat > s.iend.toNat) :
    exec .sigchk s = .next (failed 8 0 { s with errpos := s.icur, cerr := true }) := by
  simp only [exec, execSigchk, if_pos ((cursorOutOfRange_iff s).mpr h), cursorFail_eq, failureCode,
    failureField]

/-- Too few bytes, or other bytes than the signature. -/
theorem exec_sigchk_of_missing {s : State} (he : s.iend.toNat ≤ ibufSize s.cfg)
    (hc : s.icur.toNat ≤ s.iend.toNat)
    (h : s.iend.toNat - s.icur.toNat < 8 ∨ ¬ IbufHolds s s.icur.toNat signature) :
    exec .sigchk s = .next (failed 4 0 { s with errpos := s.icur, cerr := true }) := by
  simp only [exec, execSigchk, if_neg (cursorOutOfRange_of_inside he hc),
    if_pos ((signatureMissing_iff s).mpr h), cursorFail_eq, failureCode, failureField]

theorem signatureMissing_of_holds {s : State} (hc : s.icur.toNat + 8 ≤ s.iend.toNat)
    (hsig : IbufHolds s s.icur.toNat signature) : ¬ signatureMissing s = true := by
  rw [signatureMissing_iff]
  exact not_or.mpr ⟨by omega, not_not.mpr hsig⟩

/-- The signature at ICUR, inside the input: ICUR moves past it. -/
theorem exec_sigchk_of_holds {s : State} (he : s.iend.toNat ≤ ibufSize s.cfg)
    (hc : s.icur.toNat + 8 ≤ s.iend.toNat) (hsig : IbufHolds s s.icur.toNat signature) :
    exec .sigchk s = .next (succeeded { s with icur := w32 (s.icur.toNat + 8), cerr := false }) := by
  have hcursor := cursorOutOfRange_of_inside he (by omega)
  simp only [exec, execSigchk, if_neg hcursor, if_neg (signatureMissing_of_holds hc hsig), finish_eq]

/-- Settles O39: the premises of each clause decide the range check and the signature check. -/
theorem sigchkChecksSignature : Obligations.SigchkChecksSignature :=
  ⟨decode_encode .sigchk,
    fun _ => ⟨exec_sigchk_of_holds, exec_sigchk_of_outside, exec_sigchk_of_missing⟩⟩

/-! ### SIGEMIT by its range check (43_container.md R131) -/

theorem exec_sigemit_of_fits {s : State} (h : s.ocur.toNat + 8 ≤ obufSize s.cfg) :
    exec .sigemit s = .next (succeeded
      { putObuf s.ocur.toNat signature s with ocur := w32 (s.ocur.toNat + 8) }) := by
  have hroom : ¬ outOutOfRange 8 s = true := by rw [outOutOfRange_iff]; omega
  simp only [exec, execSigemit, if_neg hroom, finish_eq]

theorem exec_sigemit_of_outside {s : State} (h : s.ocur.toNat + 8 > obufSize s.cfg) :
    exec .sigemit s = .next (failed 8 0 s) := by
  simp only [exec, execSigemit, if_pos ((outOutOfRange_iff 8 s).mpr h), failWith_eq, failureCode,
    failureField]

/-- Settles O40: the signature is one byte string written at OCUR, so OBUF holds it there and is unchanged
outside its 8 bytes. -/
theorem sigemitWritesSignature : Obligations.SigemitWritesSignature := by
  refine ⟨decode_encode .sigemit, fun s => ⟨fun hfit => ?_, exec_sigemit_of_outside⟩⟩
  refine ⟨_, exec_sigemit_of_fits hfit, obufHolds_putObuf _ _ _, fun a ha => ?_⟩
  refine (obufByte_putObuf _ signature s a).trans (if_neg ?_)
  have hlen : signature.length = 8 := rfl
  omega

/-! ### VALIDATE by its outcomes (43_container.md R132, R133) -/

/-- All VALIDATE can do: fail its range, signature or capacity check at ICUR, fail on a bad record where
that record starts, or write the descriptor table of the records it found, which fits OBUF. -/
theorem exec_validate_cases {s t : State} (h : exec .validate s = .next t) :
    (∃ e, (e = .rangeError ∨ e = .badSignature) ∧ t = validateFail e s.icur s) ∨
    (∃ pos b, t = validateFail (badFailure b) (w32 pos) (diagnose b s)) ∨
    ∃ recs : List (Nat × Record), s.ocur.toNat + 16 * recs.length ≤ obufSize s.cfg ∧
      t = succeeded { putObuf s.ocur.toNat (recs.flatMap (fun p => descriptor p.1 p.2)) s with
        count := w32 recs.length, icur := s.iend, cerr := false
        ocur := w32 (s.ocur.toNat + 16 * recs.length) } := by
  simp only [exec, execValidate, Host.Outcome.next.injEq, putDescriptors_eq, finish_eq] at h
  subst h
  split
  · exact .inl ⟨.rangeError, .inl rfl, rfl⟩
  · split
    · exact .inl ⟨.badSignature, .inr rfl, rfl⟩
    · split
      · next pos b _ => exact .inr (.inl ⟨pos, b, rfl⟩)
      · next recs _ =>
        split
        · exact .inl ⟨.rangeError, .inl rfl, rfl⟩
        · next hroom =>
          rw [outOutOfRange_iff] at hroom
          exact .inr (.inr ⟨recs, by omega, rfl⟩)

@[simp] theorem validateFail_err (e : Failure) (pos : Word) (s : State) :
    (validateFail e pos s).err = true := by
  rw [validateFail_eq]
  rfl

/-- A bad record is Truncated or ChecksumMismatch (42_chunk.md R122). -/
theorem failureCode_badFailure (b : BadRecord) :
    failureCode (badFailure b) = 2 ∨ failureCode (badFailure b) = 3 := by
  cases b with
  | shortLength => exact .inl rfl
  | shortType => exact .inl rfl
  | shortData => exact .inl rfl
  | shortCrc => exact .inl rfl
  | mismatch => exact .inr rfl

/-- `t` differs from `s` in STATUS, COUNT, ERRPOS, CERR and the diagnostic registers alone: what a failing
VALIDATE may write (43_container.md R133). -/
def AgreesButFailureRecord (s t : State) : Prop :=
  t = { s with
    busy := t.busy, done := t.done, err := t.err, ecode := t.ecode, tfield := t.tfield
    count := t.count, errpos := t.errpos, cerr := t.cerr
    rlen := t.rlen, rtag := t.rtag, rcrc := t.rcrc, ccrc := t.ccrc, poff := t.poff }

theorem validateFail_agrees (e : Failure) (pos : Word) (s : State) :
    AgreesButFailureRecord s (validateFail e pos s) := rfl

theorem validateFail_diagnose_agrees (e : Failure) (pos : Word) (b : BadRecord) (s : State) :
    AgreesButFailureRecord s (validateFail e pos (diagnose b s)) := by
  cases b <;> rfl

/-- Every offset up to OBUF_SIZE fits a register. -/
theorem obufSize_lt {c : Config} (h : c.wellFormed = true) : obufSize c < 2 ^ 32 :=
  Nat.pow_lt_pow_right (by decide) (legal_log2_lt h).2

/-- A byte string written to OBUF leaves a written byte at each of its offsets. -/
theorem byteAt_putObuf_inside {o a : Nat} {bs : List Byte} (s : State) (hlo : o ≤ a)
    (hhi : a < o + bs.length) : ∃ b, Memory.byteAt (putObuf o bs s).obuf a = some b :=
  ⟨bs[a - o], by rw [putObuf_obuf, byteAt_storeBytes, if_pos ⟨hlo, hhi⟩, List.getElem?_eq_getElem]⟩

/-- Settles O43: a failure writes its record alone, whatever the check that failed; on success COUNT and
OCUR hold their unbounded values because the table fits OBUF, and OBUF has changed by the table alone. -/
theorem validateIsAllOrNothing : Obligations.ValidateIsAllOrNothing := by
  intro s t hcfg hexec
  rcases exec_validate_cases hexec with ⟨e, -, rfl⟩ | ⟨pos, b, rfl⟩ | ⟨recs, hfit, rfl⟩
  case inl =>
    exact ⟨fun _ => ⟨rfl, validateFail_agrees _ _ s, fun _ _ => ⟨rfl, rfl, rfl, rfl, rfl⟩⟩,
      fun hok => absurd hok (by simp)⟩
  case inr.inl =>
    refine ⟨fun _ => ⟨rfl, validateFail_diagnose_agrees _ _ b s, fun h2 h3 => ?_⟩,
      fun hok => absurd hok (by simp)⟩
    exact absurd (failureCode_badFailure b) (not_or.mpr ⟨h2, h3⟩)
  case inr.inr =>
    have hsize := obufSize_lt hcfg
    have hcount : (w32 recs.length).toNat = recs.length := w32_val (by omega)
    have hocur : (w32 (s.ocur.toNat + 16 * recs.length)).toNat = s.ocur.toNat + 16 * recs.length :=
      w32_val (by omega)
    have hlen := descriptors_length recs
    refine ⟨fun herr => absurd herr Bool.false_ne_true, fun _ => ⟨?_, fun a ha => ?_, fun a hlo hhi => ?_⟩⟩
    · exact hocur.trans (congrArg (s.ocur.toNat + 16 * ·) hcount.symm)
    · refine (obufByte_putObuf _ _ s a).trans (if_neg ?_)
      change a < s.ocur.toNat ∨ (w32 _).toNat ≤ a at ha
      omega
    · change a < (w32 _).toNat at hhi
      exact byteAt_putObuf_inside s hlo (by omega)

end Sys2Proof.Machine
end

section

namespace Sys2Proof.Machine

open Sys2Proof.Safety

/-! ### NOP and the illegal command word (44_control.md R145, R146) -/

/-- Settles O29: NOP's word is its encoding, and its meaning is `finish`. -/
theorem nopOnlyCompletes : Obligations.NopOnlyCompletes :=
  ⟨decode_encode .nop, fun s => congrArg Host.Outcome.next (finish_eq s)⟩

/-- An illegal word lies above every match value: a word below 8 is its own OP, with RSV = 0. -/
theorem le_toNat_of_illegal {w : Word}
    (h : w.extractLsb' 8 24 ≠ 0 ∨ 8 ≤ (w.extractLsb' 0 8).toNat) : 8 ≤ w.toNat := by
  rcases h with hrsv | hop
  · by_contra hlt
    have hhigh : w.toNat / 2 ^ 8 = 0 := Nat.div_eq_of_lt (by omega)
    exact hrsv (extractLsb'_eq_ofNat (n := 0) (by rw [hhigh]))
  · rw [BitVec.extractLsb'_toNat, Nat.shiftRight_zero] at hop
    exact hop.trans (Nat.mod_le _ _)

/-- The engine's turn on a latched word that selects no row. -/
theorem engineTurn_of_illegal {s : State} (hb : s.busy = true) (h : 8 ≤ s.latch.toNat) :
    engineTurn s = .next (failed 7 0 s) := by
  simp only [engineTurn, if_pos hb, runLatched, decode_of_le h, runIllegal, failWith_eq, failureCode,
    failureField]

/-- A write to CMD while BUSY = 0 is accepted, whatever the word (44_control.md R141). -/
theorem taken_wr32_cmd {s : State} (hb : s.busy = false) (w : Word) :
    Taken (wr32 (regOffset .cmd) w s) (acceptCmd w s) := by
  rw [wr32_reg, writeReg, unlessBusy_idle hb]
  exact taken_written (acceptCmd w s)

/-- Settles O3: acceptance does not look at the word, and the decoder rejects it at the engine's turn. -/
theorem illegalWordsComplete : Obligations.IllegalWordsComplete := by
  intro w hw
  refine ⟨fun s hb => taken_wr32_cmd hb w, fun s hb hlatch => ?_⟩
  subst hlatch
  exact engineTurn_of_illegal hb (le_toNat_of_illegal hw)

end Sys2Proof.Machine
end

section

namespace Sys2Proof.Machine

/-! ### Which accesses fit what they reach (20_memory.md R55, R58) -/

theorem accessFits_regs_iff {off : Nat} {w : Width} :
    accessFits (.regs off) w = true ↔ w = .w32 ∧ off % 4 = 0 := by
  cases w <;> simp [accessFits]

theorem accessFits_ibuf_iff {a : Nat} {w : Width} :
    accessFits (.ibuf a) w = true ↔ w = .w8 ∨ (w = .w32 ∧ a % 4 = 0) := by
  cases w <;> simp [accessFits]

theorem accessFits_obuf_iff {a : Nat} {w : Width} :
    accessFits (.obuf a) w = true ↔ w = .w8 ∨ (w = .w32 ∧ a % 4 = 0) := by
  cases w <;> simp [accessFits]

theorem accessFits_unmapped (w : Width) : accessFits .unmapped w = false := by cases w <;> rfl

/-- Nothing the window holds is reached by an access of an unsupported width. -/
theorem accessFits_unsupported (t : Target) : accessFits t .unsupported = false := by cases t <;> rfl

/-- A malformed access of width `w` at offset `off` of the window, as 60_exceptions.md R155 lists them: in
a hole of the window, of an unsupported width, 8 bits wide in the register block, or misaligned. -/
def MalformedAt (c : Config) (off : Nat) (w : Width) : Prop :=
  ((0x100 ≤ off ∧ off < 0x40000) ∨ (0x40000 + ibufSize c ≤ off ∧ off < 0x80000) ∨
    0x80000 + obufSize c ≤ off) ∨
  w = .unsupported ∨ (off < 0x100 ∧ w = .w8) ∨ (w = .w32 ∧ off % 4 ≠ 0)

/-- The model's check of an access in the window rejects exactly R155's list. The buffers start at
multiples of 4, so an access is aligned in its buffer iff it is in the window. -/
theorem accessFits_iff_not_malformedAt {c : Config} (hc : c.wellFormed = true) {addr : Nat}
    (hlo : c.base ≤ addr) (hhi : addr - c.base < 2 ^ 20) (w : Width) :
    accessFits (busTarget c addr) w = true ↔ ¬ MalformedAt c (addr - c.base) w := by
  have hsizes := legal_sizes hc
  unfold MalformedAt
  rcases busTarget_cases c addr with ⟨-, hout⟩ | ⟨-, -, ⟨off, ht, rfl, hoff⟩ | ⟨a, ht, rfl, ha⟩ |
    ⟨a, ht, rfl, ha⟩ | ⟨ht, hhole⟩⟩
  case inl => omega
  case inr.inl => rw [ht, accessFits_regs_iff]; cases w <;> simp <;> omega
  case inr.inr.inl => rw [ht, accessFits_ibuf_iff]; cases w <;> simp <;> omega
  case inr.inr.inr.inl => rw [ht, accessFits_obuf_iff]; cases w <;> simp <;> omega
  case inr.inr.inr.inr => rw [ht, accessFits_unmapped]; exact iff_of_false nofun fun h => h (.inl hhole)

/-! ### The response to an access in the window (60_exceptions.md R155) -/

theorem bufferValue_ne_busError {w : Width} (hw : w ≠ .unsupported) (f : Nat → Byte) (a : Nat) :
    bufferValue f a w ≠ .busError := by
  cases w with
  | w8 => exact nofun
  | w32 => exact nofun
  | unsupported => exact absurd rfl hw

theorem drawnValue_ne_busError {w : Width} (hw : w ≠ .unsupported) (d : Word) :
    drawnValue d w ≠ .busError := by
  cases w with
  | w8 => exact nofun
  | w32 => exact nofun
  | unsupported => exact absurd rfl hw

/-- A read that fits is answered with a value. -/
theorem readTarget_resp_ne_busError {t : Target} {w : Width} (hfit : accessFits t w = true) (s : State) :
    (readTarget t w s).resp ≠ .busError := by
  have hw : w ≠ .unsupported := by
    rintro rfl
    exact absurd hfit (by simp [accessFits_unsupported])
  cases t with
  | regs off =>
    simp only [readTarget]
    cases regAt off with
    | none => exact nofun
    | some r =>
      obtain ⟨v, d, hread, -⟩ := readReg_cases r s
      simp [hread]
  | ibuf a => exact bufferValue_ne_busError hw _ a
  | obuf a =>
    simp only [readTarget]
    split
    · exact drawnValue_ne_busError hw _
    · exact bufferValue_ne_busError hw _ a
  | unmapped => exact absurd hfit (by simp [accessFits_unmapped])
  | outside => exact nofun

/-- A write that fits is taken by the bus. -/
theorem writeTarget_resp_ne_busError {t : Target} {w : Width} (hfit : accessFits t w = true) (v : Word)
    (s : State) : (writeTarget t w v s).resp ≠ .busError := by
  cases t with
  | regs off =>
    simp only [writeTarget]
    cases regAt off <;> exact nofun
  | ibuf a => exact nofun
  | obuf a => exact nofun
  | unmapped => exact absurd hfit (by simp [accessFits_unmapped])
  | outside => exact nofun

/-- An access of the window that does not fit changes the response alone. -/
theorem hostAccess_of_not_fits {a : Access} {s : State} (hwin : busTarget s.cfg (accessAddr a) ≠ .outside)
    (h : ¬ accessFits (busTarget s.cfg (accessAddr a)) (accessWidth a) = true) :
    hostAccess a s = { s with resp := .busError } := by
  simp only [hostAccess, if_neg hwin, if_neg h, respond]

/-- An access that fits gets no bus error. -/
theorem hostAccess_resp_ne_busError {a : Access} {s : State}
    (h : accessFits (busTarget s.cfg (accessAddr a)) (accessWidth a) = true) :
    (hostAccess a s).resp ≠ .busError := by
  by_cases hout : busTarget s.cfg (accessAddr a) = .outside
  · simp [hostAccess, hout]
  · simp only [hostAccess, if_neg hout, if_pos h]
    cases a with
    | read w addr => exact readTarget_resp_ne_busError h s
    | write w addr v => exact writeTarget_resp_ne_busError h v s

/-- An address of the window is not outside it. -/
theorem busTarget_ne_outside {c : Config} {addr : Nat} (hlo : c.base ≤ addr)
    (hhi : addr - c.base < 2 ^ 20) : busTarget c addr ≠ .outside := by
  rcases busTarget_cases c addr with ⟨-, hout⟩ | ⟨-, -, ⟨_, ht, -⟩ | ⟨_, ht, -⟩ | ⟨_, ht, -⟩ | ⟨ht, -⟩⟩
  case inl => omega
  all_goals simp [ht]

/-- Settles O16: R155's list is exactly what the model's check rejects, and a rejected access changes the
response alone, which neither IRQ nor STATUS looks at. -/
theorem malformedAccessesGetBusErrors : Obligations.MalformedAccessesGetBusErrors := by
  intro s a hc
  refine fun ⟨hlo, hhi⟩ => ?_
  change (_ ↔ MalformedAt s.cfg (accessAddr a - s.cfg.base) (accessWidth a)) ∧
    (MalformedAt s.cfg (accessAddr a - s.cfg.base) (accessWidth a) → _)
  have hfits := accessFits_iff_not_malformedAt hc hlo hhi (accessWidth a)
  have herror (hm : MalformedAt s.cfg (accessAddr a - s.cfg.base) (accessWidth a)) :
      hostAccess a s = { s with resp := .busError } :=
    hostAccess_of_not_fits (busTarget_ne_outside hlo hhi) fun h => hfits.mp h hm
  refine ⟨⟨fun hresp => ?_, fun hm => ?_⟩, fun hm => ?_⟩
  · by_contra hm
    exact hostAccess_resp_ne_busError (hfits.mpr hm) hresp
  · rw [herror hm]
  · rw [herror hm]
    exact ⟨rfl, rfl, rfl⟩

end Sys2Proof.Machine
end

section

namespace Sys2Proof.Machine

open Sys2Proof.Safety

/-! ### IRQ after each named update of the state (60_exceptions.md R157) -/

/-- A completion sets DONE, so IRQ is IE. -/
@[simp] theorem irq_complete (code : BitVec 4) (k : BitVec 2) (s : State) :
    irq (complete code k s) = s.ie := by simp [irq]

@[simp] theorem irq_finish (s : State) : irq (finish s) = s.ie := irq_complete _ _ s

@[simp] theorem irq_failWith (e : Failure) (s : State) : irq (failWith e s) = s.ie := irq_complete _ _ s

@[simp] theorem irq_cursorFail (e : Failure) (pos : Word) (s : State) :
    irq (cursorFail e pos s) = s.ie := irq_complete _ _ _

@[simp] theorem irq_validateFail (e : Failure) (pos : Word) (s : State) :
    irq (validateFail e pos s) = s.ie := irq_complete _ _ _

@[simp] theorem irq_respond (r : Response) (s : State) : irq (respond r s) = irq s := rfl

@[simp] theorem irq_acceptCmd (w : Word) (s : State) : irq (acceptCmd w s) = false := by simp [irq]

@[simp] theorem irq_writeStatus (v : Word) (s : State) :
    irq (writeStatus v s) = (irq s && !v.getLsbD 1) := (Bool.and_assoc _ _ _).symm

@[simp] theorem irq_writeCtrl (v : Word) (s : State) :
    irq (writeCtrl v s) = (v.getLsbD 0 && s.done) := rfl

@[simp] theorem putDescriptors_ie (o : Nat) (recs : List (Nat × Record)) (s : State) :
    (putDescriptors o recs s).ie = s.ie := by
  rw [putDescriptors_eq, putObuf_ie]

/-- Every path of every command ends in a completion, and none changes IE before it. -/
theorem irq_exec {i : Instr} {s t : State} (h : exec i s = .next t) : irq t = s.ie := by
  cases i with
  | nop => cases h; exact irq_finish s
  | tagstr => cases h; dsimp only; (repeat' split) <;> simp
  | crc => cases h; split <;> simp
  | encode => cases h; (repeat' split) <;> simp
  | decode => cases h; (repeat' split) <;> simp
  | sigchk => cases h; (repeat' split) <;> simp
  | sigemit => cases h; split <;> simp
  | validate => cases h; dsimp only; (repeat' split) <;> simp

/-- The block drives its own line alone, and drives it with IRQ. -/
theorem irqLineDriven_iff (s : State) (n : Nat) :
    irqLineDriven s n = true ↔ n = s.cfg.irqLine ∧ s.ie = true ∧ s.done = true := by
  simp [irqLineDriven, irq]

/-- Settles O24: each event is one named update of the state, and the response to the host does not reach
IRQ. -/
theorem interruptLineFollowsDone : Obligations.InterruptLineFollowsDone := by
  refine ⟨fun i s t => irq_exec, fun s w hb => ?accept, fun s v => ?acknowledge, fun s v => ?mask,
    fun s => rfl, irqLineDriven_iff⟩
  case accept =>
    have haccept : wr32 0x10 w s = respond .written (acceptCmd w s) := by
      rw [← unlessBusy_idle hb (acceptCmd w)]
      exact wr32_reg s .cmd w
    rw [haccept, irq_respond, irq_acceptCmd]
  case acknowledge =>
    have hwrite : wr32 0x0C v s = respond .written (writeStatus v s) := wr32_reg s .status v
    rw [hwrite, irq_respond, irq_writeStatus]
  case mask =>
    have hwrite : wr32 0x08 v s = respond .written (writeCtrl v s) := wr32_reg s .ctrl v
    rw [hwrite, irq_respond, irq_writeCtrl]

end Sys2Proof.Machine
end

section

namespace Sys2Proof

/-! ### Decoding is exact (30_encoding.md R71) -/

/-- The instruction a decoded word is the encoding of: a word below 8 is a `match` value. -/
theorem encode_of_decode {w : Word} {i : Instr} (h : decode w = .ok i) : w = encode i := by
  have hlt : w.toNat < 8 := by
    by_contra hge
    rw [decode_of_le (by omega)] at h
    cases h
  obtain ⟨n, hn, rfl⟩ : ∃ n, n < 8 ∧ w = BitVec.ofNat 32 n := ⟨w.toNat, hlt, by simp⟩
  interval_cases n <;> (cases h; rfl)

/-- The words rejected are those from 8 on: no row of the opcode map is left out below. -/
theorem decode_error_iff (w : Word) : (∃ why, decode w = .error why) ↔ 8 ≤ w.toNat := by
  refine ⟨fun ⟨why, h⟩ => ?_, fun h => ⟨_, decode_of_le h⟩⟩
  by_contra hlt
  obtain ⟨n, hn, rfl⟩ : ∃ n, n < 8 ∧ w = BitVec.ofNat 32 n := ⟨w.toNat, by omega, by simp⟩
  interval_cases n <;> cases h

/-- A word is illegal by its fields exactly when it is 8 or more. -/
theorem illegal_iff (w : Word) :
    (w.extractLsb' 8 24 ≠ 0 ∨ 8 ≤ (w.extractLsb' 0 8).toNat) ↔ 8 ≤ w.toNat := by
  refine ⟨Machine.le_toNat_of_illegal, fun h => or_iff_not_imp_left.mpr fun hrsv => ?_⟩
  have hhigh : w.toNat / 2 ^ 8 % 2 ^ 24 = 0 := by
    simpa [BitVec.extractLsb'_toNat, Nat.shiftRight_eq_div_pow] using
      congrArg BitVec.toNat (not_not.mp hrsv)
  rw [BitVec.extractLsb'_toNat, Nat.shiftRight_zero]
  have := w.isLt
  omega

/-- Settles O2: a word below 8 is the `match` value of its row, and a word from 8 on, which has a bit of
RSV or a reserved OP, selects none. -/
theorem decodeIsExactMatch : Obligations.DecodeIsExactMatch :=
  ⟨fun _ i => ⟨encode_of_decode, fun h => h ▸ decode_encode i⟩,
    fun w => (decode_error_iff w).trans (illegal_iff w).symm⟩

end Sys2Proof
end

section

namespace Sys2Proof.Machine

open Sys2Proof.Safety

/-! ### What a step does with its input (44_control.md R142, 60_exceptions.md R160) -/

/-- `s` with its oldest input used up. -/
def popInput (s : State) : State := { s with inputs := s.inputs.tail }

theorem popInput_of_nil {s : State} (h : s.inputs = []) : popInput s = s := by
  cases s
  cases h
  rfl

theorem popInput_of_cons {s : State} {i : Input} {rest : List Input} (h : s.inputs = i :: rest) :
    popInput s = { s with inputs := rest } := by
  simp only [popInput, h, List.tail_cons]

theorem step_of_nil {s : State} (h : s.inputs = []) : step s = engineTurn s := by
  simp only [step, h]

theorem step_of_cons {s : State} {i : Input} {rest : List Input} (h : s.inputs = i :: rest) :
    step s = applyInput i { s with inputs := rest } := by
  simp only [step, h]

theorem applyInput_engine (s : State) : applyInput engineInput s = engineTurn s := rfl

theorem applyInput_host (a : Access) (s : State) :
    applyInput ⟨false, .host a⟩ s = .next (hostAccess a s) := rfl

theorem applyInput_reset {i : Input} (h : i.rst = true) (s : State) :
    applyInput i s = .next (applyReset s) := by
  simp only [applyInput, if_pos h]

/-- Everything a step can do: a reset, one host access, or the engine's turn. -/
theorem step_cases {s t : State} (h : step s = .next t) :
    (∃ i rest, s.inputs = i :: rest ∧ i.rst = true ∧ t = applyReset (popInput s)) ∨
    (∃ a rest, s.inputs = ⟨false, .host a⟩ :: rest ∧ t = hostAccess a (popInput s)) ∨
    engineTurn (popInput s) = .next t := by
  cases hin : s.inputs with
  | nil =>
    rw [step_of_nil hin] at h
    rw [popInput_of_nil hin]
    exact .inr (.inr h)
  | cons i rest =>
    rw [step_of_cons hin, ← popInput_of_cons hin] at h
    obtain ⟨_ | _, _ | _⟩ := i
    · cases h
      exact .inr (.inl ⟨_, rest, rfl, rfl⟩)
    · exact .inr (.inr h)
    · cases h
      exact .inl ⟨_, rest, rfl, rfl, rfl⟩
    · cases h
      exact .inl ⟨_, rest, rfl, rfl, rfl⟩

/-- The engine has no step while BUSY = 0. -/
theorem engineTurn_of_idle {s : State} (hb : s.busy = false) : engineTurn s = .next s := by
  simp [engineTurn, hb]

/-- While BUSY = 1 the engine runs the instruction LATCH decodes to. -/
theorem engineTurn_of_decode {s : State} {i : Instr} (hb : s.busy = true) (h : decode s.latch = .ok i) :
    engineTurn s = exec i s := by
  simp only [engineTurn, if_pos hb, runLatched, h]

/-- Everything the engine's turn can do. -/
theorem engineTurn_cases {s t : State} (h : engineTurn s = .next t) :
    (s.busy = false ∧ t = s) ∨
    (s.busy = true ∧ ∃ i, decode s.latch = .ok i ∧ exec i s = .next t) ∨
    (s.busy = true ∧ t = failWith .illegalCommand s) := by
  cases hb : s.busy with
  | false =>
    rw [engineTurn_of_idle hb] at h
    cases h
    exact .inl ⟨rfl, rfl⟩
  | true =>
    cases hd : decode s.latch with
    | ok i => exact .inr (.inl ⟨rfl, i, rfl, (engineTurn_of_decode hb hd).symm.trans h⟩)
    | error why =>
      simp only [engineTurn, if_pos hb, runLatched, hd, runIllegal] at h
      cases h
      exact .inr (.inr ⟨rfl, rfl⟩)

/-- Every step answers a next state. -/
theorem step_next (s : State) : ∃ t, step s = .next t := by
  cases hin : s.inputs with
  | nil => exact step_of_nil hin ▸ engineTurn_next s
  | cons i rest =>
    rw [step_of_cons hin]
    obtain ⟨_ | _, _ | _⟩ := i
    · exact ⟨_, rfl⟩
    · exact engineTurn_next _
    · exact ⟨_, rfl⟩
    · exact ⟨_, rfl⟩

/-- Settles O4: each case of the input list gives the engine its turn, which the decoder's answer
decides. -/
theorem stepRunsLatchedCommand : Obligations.StepRunsLatchedCommand := by
  refine ⟨fun s i rest hb hd => ⟨fun hin => ?_, fun hin => ?_⟩,
    fun s rest hb hw => ⟨fun hin => ?_, fun hin => ?_⟩⟩
  · exact (step_of_nil hin).trans (engineTurn_of_decode hb hd)
  · exact (step_of_cons hin).trans (engineTurn_of_decode (s := { s with inputs := rest }) hb hd)
  · exact (step_of_nil hin).trans (engineTurn_of_illegal hb (le_toNat_of_illegal hw))
  · exact (step_of_cons hin).trans
      (engineTurn_of_illegal (s := { s with inputs := rest }) hb (le_toNat_of_illegal hw))

/-- A word of 32 bits is the command word its number stands for. -/
theorem tableWord_toNat (w : Word) : tableWord 32 w.toNat = w := by
  rw [tableWord, Nat.mod_eq_of_lt w.isLt, BitVec.ofNat_toNat, BitVec.setWidth_eq]

/-- Settles O5: the engine's turn stands in front, BUSY is 1 and LATCH holds the encoding; the state it
runs on has the inputs of `s` again. -/
theorem placedCommandRunsNext : Obligations.PlacedCommandRunsNext := by
  intro s i
  rw [step_of_cons (s := s.withFetchWord 32 (encode i).toNat) rfl, applyInput_engine,
    State.withFetchWord, tableWord_toNat, engineTurn_of_decode rfl (decode_encode i)]
  rfl

/-- Settles O6: the three ways an input without reset meets BUSY. -/
theorem stepServesInputs : Obligations.StepServesInputs := by
  refine ⟨fun s a rest hin => (step_of_cons hin).trans (applyInput_host a _),
    fun s rest hb hin => (step_of_cons hin).trans ?_, fun s hb hin => (step_of_nil hin).trans ?_⟩
  · exact engineTurn_of_idle (s := { s with inputs := rest }) hb
  · exact engineTurn_of_idle hb

/-! ### Reset (70_reset_and_hazards.md R170, R180) -/

/-- The classifier of the reset value 0: no byte is a letter, and the flag bits are clear. -/
theorem classify_zero : classify 0 = 0x00000070 := by decide

/-- After reset STATUS is clear but for CSTATE, which is EXHAUSTED because both cursors are 0. -/
theorem statusWord_applyReset (s : State) : statusWord (applyReset s) = 0x00000400 := by
  simp [statusWord, statusWordWith, cstate, applyReset, State.resetOf, bitAt]

/-- Settles O9: the step is `applyReset`, whose registers are those of `State.resetOf` and whose buffers
list no written byte. -/
theorem resetOverridesEverything : Obligations.ResetOverridesEverything := by
  intro s i rest hin hrst
  refine ⟨_, (step_of_cons hin).trans (applyInput_reset hrst _), rfl, rfl, statusWord_applyReset _,
    fun r hr => ?_, classify_zero, classify_zero, rfl, rfl, rfl, fun _ => rfl, fun _ => rfl, rfl, rfl⟩
  fin_cases hr <;> rfl

/-- Reset's registers and empty buffers are legal whatever the legal parameters. -/
theorem inv_resetOf {c : Config} (h : c.wellFormed = true) : Inv (State.resetOf c) := ⟨h, rfl, rfl⟩

/-- Settles O10: reset leaves BUSY, OVR and STATUS clear and the buffers empty. -/
theorem resetIsIdleAndLegal : Obligations.ResetIsIdleAndLegal :=
  ⟨fun _ h => ⟨inv_resetOf h, rfl, rfl⟩, inv_resetOf (by decide), rfl, rfl⟩

end Sys2Proof.Machine
end

section

namespace Sys2Proof.Machine

open Sys2Proof.Safety

/-! ### Everything a command can do (44_control.md R142, R144) -/

/-- Everything each command can do to the state: its success, then its failures. -/
inductive ExecEffect (s : State) : Instr → State → Prop where
  | nop : ExecEffect s .nop (finish s)
  | tagstr (v : Word) : ExecEffect s .tagstr (finish { s with tag := v })
  | crc (k : Word) : ExecEffect s .crc (finish { s with ccrc := k })
  | encode (bs : List Byte) (k : Word) : s.ocur.toNat + bs.length ≤ obufSize s.cfg →
      ExecEffect s .encode (finish { putObuf s.ocur.toNat bs s with
        rlen := s.slen, rtag := s.tag, rcrc := k, ccrc := k, ocur := w32 (s.ocur.toNat + bs.length) })
  | decode (r : Record) (next : Nat) :
      ExecEffect s .decode (finish { recordRegs r s with icur := w32 next, cerr := false })
  | sigchk : ExecEffect s .sigchk (finish { s with icur := w32 (s.icur.toNat + 8), cerr := false })
  | sigemit (bs : List Byte) : s.ocur.toNat + bs.length ≤ obufSize s.cfg →
      ExecEffect s .sigemit (finish { putObuf s.ocur.toNat bs s with
        ocur := w32 (s.ocur.toNat + bs.length) })
  | validate (bs : List Byte) (n : Word) : s.ocur.toNat + bs.length ≤ obufSize s.cfg →
      ExecEffect s .validate (finish { putObuf s.ocur.toNat bs s with
        count := n, icur := s.iend, cerr := false, ocur := w32 (s.ocur.toNat + bs.length) })
  | tagstrFails (e : Failure) : e = .malformedTag ∨ e = .rangeError →
      ExecEffect s .tagstr (failWith e s)
  | crcFails : ExecEffect s .crc (failWith .rangeError s)
  | encodeFails : ExecEffect s .encode (failWith .rangeError s)
  | sigemitFails : ExecEffect s .sigemit (failWith .rangeError s)
  | decodeRangeFails : ExecEffect s .decode (cursorFail .rangeError s.icur s)
  | decodeFails (b : BadRecord) :
      ExecEffect s .decode (cursorFail (badFailure b) s.icur (diagnose b s))
  | sigchkFails (e : Failure) : e = .rangeError ∨ e = .badSignature →
      ExecEffect s .sigchk (cursorFail e s.icur s)
  | validateFails (e : Failure) : e = .rangeError ∨ e = .badSignature →
      ExecEffect s .validate (validateFail e s.icur s)
  | validateRecordFails (pos : Word) (b : BadRecord) :
      ExecEffect s .validate (validateFail (badFailure b) pos (diagnose b s))

/-- A command's next state is one of its effects. -/
theorem exec_effect {i : Instr} {s t : State} (h : exec i s = .next t) : ExecEffect s i t := by
  cases i with
  | nop => cases h; exact .nop
  | tagstr =>
    cases h
    dsimp only
    split
    · exact .tagstrFails _ (.inl rfl)
    · split
      · exact .tagstrFails _ (.inr rfl)
      · split
        · exact .tagstr _
        · exact .tagstrFails _ (.inl rfl)
  | crc =>
    cases h
    split
    · exact .crcFails
    · exact .crc _
  | encode =>
    by_cases hout : s.src.toNat + s.slen.toNat > ibufSize s.cfg ∨
        s.ocur.toNat + 12 + s.slen.toNat > obufSize s.cfg
    · rw [exec_encode_of_outside hout] at h
      cases h
      exact .encodeFails
    · rw [exec_encode_of_fits (by omega) (by omega)] at h
      cases h
      have hlen (k : Word) : s.ocur.toNat + (recordBytes s.slen s.tag (srcString s) k).length =
          s.ocur.toNat + 12 + s.slen.toNat := by
        rw [recordBytes_length, srcString_length, Nat.add_assoc]
      rw [← hlen (recordCrc s.tag (srcString s))]
      exact .encode _ _ (by rw [hlen]; omega)
  | decode =>
    cases h
    split
    · exact .decodeRangeFails
    · split
      · exact .decode _ _
      · exact .decodeFails _
  | sigchk =>
    cases h
    split
    · exact .sigchkFails _ (.inl rfl)
    · split
      · exact .sigchkFails _ (.inr rfl)
      · exact .sigchk
  | sigemit =>
    by_cases hout : s.ocur.toNat + 8 > obufSize s.cfg
    · rw [exec_sigemit_of_outside hout] at h
      cases h
      exact .sigemitFails
    · rw [exec_sigemit_of_fits (by omega)] at h
      cases h
      exact .sigemit signature (Nat.not_lt.mp hout)
  | validate =>
    rcases exec_validate_cases h with ⟨e, he, rfl⟩ | ⟨pos, b, rfl⟩ | ⟨recs, hfit, rfl⟩
    · exact .validateFails e he
    · exact .validateRecordFails _ b
    · rw [← descriptors_length] at hfit ⊢
      exact .validate _ _ hfit

/-! ### Completion as the frame lemmas see it -/

@[simp] theorem failureCode_ne_zero (e : Failure) : failureCode e ≠ 0#4 := by
  cases e <;> exact nofun

/-! ### The frame of the commands (10_state.md R48) -/

/-- What no command writes. -/
theorem exec_frame {i : Instr} {s t : State} (h : exec i s = .next t) :
    t.cfg = s.cfg ∧ t.ie = s.ie ∧ t.ovr = s.ovr ∧ t.src = s.src ∧ t.slen = s.slen ∧
      t.iend = s.iend ∧ t.latch = s.latch ∧ t.ibuf = s.ibuf ∧ t.inputs = s.inputs ∧
      t.resp = s.resp ∧ t.draws = s.draws ∧ t.resets = s.resets := by
  cases exec_effect h with
  | decodeFails b => cases b <;> exact ⟨rfl, rfl, rfl, rfl, rfl, rfl, rfl, rfl, rfl, rfl, rfl, rfl⟩
  | validateRecordFails pos b =>
    cases b <;> exact ⟨rfl, rfl, rfl, rfl, rfl, rfl, rfl, rfl, rfl, rfl, rfl, rfl⟩
  | _ => exact ⟨rfl, rfl, rfl, rfl, rfl, rfl, rfl, rfl, rfl, rfl, rfl, rfl⟩

/-- Settles O49: `exec_frame` is the common part; each line of the table is read off the effects of the
commands it does not name. -/
theorem commandsWriteOnlyTheirRegisters : Obligations.CommandsWriteOnlyTheirRegisters := by
  intro i s t h
  refine ⟨exec_frame h, ?_⟩
  cases exec_effect h <;> simp [finish, failWith, cursorFail, validateFail]

theorem failureCode_badFailure_mem {codes : List (BitVec 4)} (h2 : 2 ∈ codes) (h3 : 3 ∈ codes)
    (b : BadRecord) : failureCode (badFailure b) ∈ codes := by
  rcases failureCode_badFailure b with h | h
  · rwa [h]
  · rwa [h]

/-- A completion is a legal record, and its code is the one it was given. -/
theorem complete_record {code : BitVec 4} {codes : List (BitVec 4)} (hcode : code ∈ codes) (k : BitVec 2)
    (s : State) : (complete code k s).busy = false ∧ (complete code k s).done = true ∧
    ((complete code k s).err = true ↔ (complete code k s).ecode ≠ 0) ∧
    ((complete code k s).ecode ≠ 2 → (complete code k s).tfield = 0) ∧
    (complete code k s).ecode ∈ codes :=
  ⟨rfl, rfl, bne_iff_ne, fun h => if_neg h, hcode⟩

/-- Settles O50: every effect is a completion, with code 0 on success and its failure's code otherwise.
-/
theorem commandsRaiseOnlyTheirFailures : Obligations.CommandsRaiseOnlyTheirFailures := by
  intro i s
  obtain ⟨t, h⟩ := exec_next i s
  refine ⟨t, h, ?_⟩
  cases exec_effect h with
  | tagstrFails e he => rcases he with rfl | rfl <;> exact complete_record (by decide) _ _
  | sigchkFails e he => rcases he with rfl | rfl <;> exact complete_record (by decide) _ _
  | validateFails e he => rcases he with rfl | rfl <;> exact complete_record (by decide) _ _
  | decodeFails b => exact complete_record (failureCode_badFailure_mem (by decide) (by decide) b) _ _
  | validateRecordFails pos b =>
    exact complete_record (failureCode_badFailure_mem (by decide) (by decide) b) _ _
  | _ => exact complete_record (by decide) _ _

/-! ### Cursors (10_state.md R29, R33, 44_control.md R148) -/

/-- Settles O23: the cases of `cstate` are exclusive; IEND stays and ICUR stays or advances up to it. -/
theorem cursorStateValues : Obligations.CursorStateValues := by
  refine ⟨fun s => ⟨?error, ?exhausted, ?more, ?beyond⟩, fun i s t h hle => ?_⟩
  case error => exact fun he => if_pos he
  case exhausted => exact fun he heq => by simp [cstate, he, heq]
  case more => exact fun he hlt => by simp [cstate, he, hlt, hlt.ne]
  case beyond => exact fun he hgt => by simp [cstate, he, hgt.ne', hgt.not_gt]
  obtain ⟨hiend, -, hicur⟩ := exec_cursors i s t h
  rw [hiend]
  rcases hicur with hsame | ⟨n, hn, -, hend, -⟩
  · rwa [hsame]
  · rw [hn, w32_val (by omega)]
    exact hend

/-- Settles O53: a moved cursor holds its unbounded value, because OBUF_SIZE and IEND fit a register. -/
theorem cursorsNeverWrap : Obligations.CursorsNeverWrap := by
  intro i s t hcfg h
  have hsize := obufSize_lt hcfg
  obtain ⟨-, hocur, hicur⟩ := exec_cursors i s t h
  have hout : s.ocur.toNat ≤ t.ocur.toNat ∧ (t.ocur ≠ s.ocur → t.ocur.toNat ≤ obufSize s.cfg) := by
    rcases hocur with hsame | ⟨n, hn, hfit⟩
    · exact ⟨by rw [hsame], fun hne => absurd hsame hne⟩
    · rw [hn, w32_val (by omega)]
      exact ⟨Nat.le_add_right _ _, fun _ => hfit⟩
  have hin : s.icur.toNat ≤ t.icur.toNat ∧
      (t.icur ≠ s.icur → t.icur.toNat ≤ s.iend.toNat ∧ s.iend.toNat ≤ ibufSize s.cfg) := by
    rcases hicur with hsame | ⟨n, hn, hlo, hend, hfit⟩
    · exact ⟨by rw [hsame], fun hne => absurd hsame hne⟩
    · rw [hn, w32_val (by omega)]
      exact ⟨hlo, fun _ => ⟨hend, hfit⟩⟩
  exact ⟨hout.1, hout.2, hin.1, hin.2⟩

/-- Settles O51: CERR of each effect of a command and of each effect of a write. -/
theorem cursorErrorFlagCauses : Obligations.CursorErrorFlagCauses := by
  refine ⟨fun i s t h => ?_, fun a s => ?_, fun s => rfl⟩
  · cases exec_effect h <;> simp [finish, failWith, cursorFail, validateFail, bne]
  · rcases hostAccess_cases a s with ⟨r, d, h, -⟩ | ⟨w, addr, v, t, rfl, he, h⟩
    · exact .inl (by rw [h])
    · rw [h]
      cases he with
      | icur hb hw ha => exact .inr ⟨rfl, hb, v, .inl (by rw [hw, ha])⟩
      | iend hb hw ha => exact .inr ⟨rfl, hb, v, .inr (by rw [hw, ha])⟩
      | _ => exact .inl rfl

end Sys2Proof.Machine
end

section

namespace Sys2Proof.Machine

open Sys2Proof.Safety

/-! ### OBUF after a command (20_memory.md R69) -/

/-- A command leaves OBUF, or it is a successful ENCODE, SIGEMIT or VALIDATE that writes the bytes from
the old to the new OCUR, inside OBUF. -/
theorem exec_obuf {i : Instr} {s t : State} (h : exec i s = .next t) :
    t.obuf = s.obuf ∨
    ∃ bs : List Byte, t.obuf = Memory.storeBytes s.obuf s.ocur.toNat bs ∧
      s.ocur.toNat + bs.length ≤ obufSize s.cfg ∧ t.ocur = w32 (s.ocur.toNat + bs.length) ∧
      t.err = false ∧ i ∈ [Instr.encode, .sigemit, .validate] := by
  cases exec_effect h with
  | encode bs k hfit => exact .inr ⟨bs, rfl, hfit, rfl, rfl, by decide⟩
  | sigemit bs hfit => exact .inr ⟨bs, rfl, hfit, rfl, rfl, by decide⟩
  | validate bs n hfit => exact .inr ⟨bs, rfl, hfit, rfl, rfl, by decide⟩
  | decodeFails b => exact .inl (diagnose_obuf b s)
  | validateRecordFails pos b => exact .inl (diagnose_obuf b s)
  | _ => exact .inl rfl

/-! ### The parts of the invariant -/

/-- One buffer in canonical form inside its size. -/
def BufferLegal (m : Memory) (size : Nat) : Prop := Memory.wf m = true ∧ Memory.within m size = true

theorem bufferLegal_storeBytes {m : Memory} {size a : Nat} {bs : List Byte} (h : BufferLegal m size)
    (hfit : a + bs.length ≤ size) : BufferLegal (Memory.storeBytes m a bs) size :=
  ⟨storeBytes_wf h.1 a bs, storeBytes_within h.2 hfit⟩

theorem buffersLegal_iff (s : State) : buffersLegal s = true ↔
    BufferLegal s.ibuf (ibufSize s.cfg) ∧ BufferLegal s.obuf (obufSize s.cfg) := by
  simp only [buffersLegal, BufferLegal, Bool.and_eq_true, and_assoc]

theorem statusLegal_iff (s : State) : statusLegal s = true ↔
    s.err = (s.ecode != 0) ∧ (s.ecode = 2 ∨ s.tfield = 0) ∧ producedCode s.ecode = true ∧
      (s.busy = true → s.done = false ∧ s.err = false) := by
  cases hb : s.busy <;> simp [statusLegal, hb, and_assoc]

/-- Every failure kind has a code the block produces (60_exceptions.md R150). -/
theorem producedCode_failureCode (e : Failure) : producedCode (failureCode e) = true := by
  cases e <;> rfl

theorem statusLegal_complete {code : BitVec 4} (hcode : producedCode code = true) (k : BitVec 2)
    (s : State) : statusLegal (complete code k s) = true := by
  rw [statusLegal_iff]
  refine ⟨rfl, ?_, hcode, nofun⟩
  by_cases h : code = 2
  · exact .inl h
  · exact .inr (if_neg h)

theorem statusLegal_finish (s : State) : statusLegal (finish s) = true := statusLegal_complete rfl 0 s

theorem statusLegal_failWith (e : Failure) (s : State) : statusLegal (failWith e s) = true :=
  statusLegal_complete (producedCode_failureCode e) _ s

theorem exec_statusLegal {i : Instr} {s t : State} (h : exec i s = .next t) : statusLegal t = true := by
  cases exec_effect h with
  | nop | tagstr | crc | encode | decode | sigchk | sigemit | validate => exact statusLegal_finish _
  | _ => exact statusLegal_failWith _ _

/-! ### The invariant through a step -/

/-- A command keeps the invariant: its completion is a legal STATUS, and what it writes to OBUF fits. -/
theorem exec_inv {i : Instr} {s t : State} (hinv : Inv s) (h : exec i s = .next t) : Inv t := by
  obtain ⟨hcfg, hbuf, -⟩ := hinv
  obtain ⟨hcfgEq, -, -, -, -, -, -, hibufEq, -⟩ := exec_frame h
  rw [buffersLegal_iff] at hbuf
  refine ⟨hcfgEq ▸ hcfg, (buffersLegal_iff t).mpr ?_, exec_statusLegal h⟩
  rw [hcfgEq, hibufEq]
  rcases exec_obuf h with hsame | ⟨bs, hwrite, hfit, -⟩
  · rwa [hsame]
  · rw [hwrite]
    exact ⟨hbuf.1, bufferLegal_storeBytes hbuf.2 hfit⟩

/-- An illegal word's completion is a legal STATUS, and an engine's turn without a command changes
nothing. -/
theorem engineTurn_inv {s t : State} (hinv : Inv s) (h : engineTurn s = .next t) : Inv t := by
  rcases engineTurn_cases h with ⟨-, rfl⟩ | ⟨-, i, -, hexec⟩ | ⟨-, rfl⟩
  · exact hinv
  · exact exec_inv hinv hexec
  · exact ⟨hinv.1, hinv.2.1, statusLegal_failWith _ _⟩

/-- The bytes of a write that fits lie in a buffer that holds its first one: the size is a multiple of
4. -/
theorem writtenBytes_fit {a size : Nat} {w : Width} (hw : w = .w8 ∨ (w = .w32 ∧ a % 4 = 0))
    (ha : a < size) (h4 : size % 4 = 0) (v : Word) : a + (writtenBytes v w).length ≤ size := by
  rcases hw with rfl | ⟨rfl, ha4⟩
  · exact ha
  · show a + 4 ≤ size
    omega

/-- A write's effect keeps the invariant: only an accepted buffer write, the acceptance of a command and
a write to STATUS touch what it is about. -/
theorem writeEffect_inv {s t : State} {w : Width} {addr : Nat} {v : Word} (hinv : Inv s)
    (he : WriteEffect s w addr v t) : Inv t := by
  obtain ⟨hcfg, hbuf, hstatus⟩ := hinv
  obtain ⟨⟨-, -, hi4⟩, -, -, ho4⟩ := legal_sizes hcfg
  have hbufs := (buffersLegal_iff s).mp hbuf
  cases he with
  | status =>
    rw [statusLegal_iff] at hstatus
    obtain ⟨herr, hfield, hcode, hbusy⟩ := hstatus
    refine ⟨hcfg, hbuf, (statusLegal_iff _).mpr ⟨herr, hfield, hcode, fun hb => ?_⟩⟩
    obtain ⟨hdone, herrb⟩ := hbusy hb
    exact ⟨by rw [writeStatus_done, hdone, Bool.false_and], herrb⟩
  | cmd => exact ⟨hcfg, hbuf, by simp [statusLegal, producedCode]⟩
  | ibuf x _ _ hx hfits =>
    refine ⟨hcfg, (buffersLegal_iff _).mpr ⟨bufferLegal_storeBytes hbufs.1 ?_, hbufs.2⟩, hstatus⟩
    exact writtenBytes_fit (accessFits_ibuf_iff.mp hfits) hx hi4 v
  | obuf x _ _ hx hfits =>
    refine ⟨hcfg, (buffersLegal_iff _).mpr ⟨hbufs.1, bufferLegal_storeBytes hbufs.2 ?_⟩, hstatus⟩
    exact writtenBytes_fit (accessFits_obuf_iff.mp hfits) hx ho4 v
  | _ => exact ⟨hcfg, hbuf, hstatus⟩

theorem hostAccess_inv {s : State} (hinv : Inv s) (a : Access) : Inv (hostAccess a s) := by
  rcases hostAccess_cases a s with ⟨r, d, h, -⟩ | ⟨w, addr, v, t, -, he, h⟩
  · rw [h]
    exact hinv
  · have ht : Inv t := writeEffect_inv hinv he
    rw [h]
    exact ht

/-- Settles O11: using up an input touches nothing the invariant is about; then a reset establishes it,
and a host access and the engine's turn keep it. -/
theorem stepKeepsInvariant : Obligations.StepKeepsInvariant := by
  intro s t hinv h
  have hpop : Inv (popInput s) := hinv
  rcases step_cases h with ⟨i, rest, -, -, rfl⟩ | ⟨a, rest, -, rfl⟩ | hturn
  · exact inv_resetOf hinv.1
  · exact hostAccess_inv hpop a
  · exact engineTurn_inv hpop hturn

/-! ### Steps answer, and accepted commands complete (44_control.md R142) -/

theorem engineTurn_inputs {s t : State} (h : engineTurn s = .next t) : t.inputs = s.inputs := by
  rcases engineTurn_cases h with ⟨-, rfl⟩ | ⟨-, i, -, hexec⟩ | ⟨-, rfl⟩
  · rfl
  · obtain ⟨-, -, -, -, -, -, -, -, hinputs, -⟩ := exec_frame hexec
    exact hinputs
  · rfl

/-- Settles O7: every step answers a next state, keeps the parameters and uses up one input. -/
theorem everyStepAnswersNext : Obligations.EveryStepAnswersNext := by
  intro s
  obtain ⟨t, h⟩ := step_next s
  refine ⟨t, h, step_cfg h, ?_⟩
  rcases step_cases h with ⟨i, rest, -, -, rfl⟩ | ⟨a, rest, -, rfl⟩ | hturn
  · rfl
  · exact hostAccess_inputs a _
  · exact engineTurn_inputs hturn

theorem engineTurn_completes {s : State} (hb : s.busy = true) :
    ∃ t, engineTurn s = .next t ∧ t.busy = false ∧ t.done = true := by
  obtain ⟨t, h⟩ := engineTurn_next s
  refine ⟨t, h, ?_⟩
  rcases engineTurn_cases h with ⟨hidle, -⟩ | ⟨-, i, -, hexec⟩ | ⟨-, rfl⟩
  · rw [hb] at hidle
    cases hidle
  · obtain ⟨u, hu, hbusy, hdone, -⟩ := commandsRaiseOnlyTheirFailures i s
    rw [hexec] at hu
    cases hu
    exact ⟨hbusy, hdone⟩
  · exact ⟨rfl, rfl⟩

/-- No host access ends a command. -/
theorem hostAccess_keeps_busy {s : State} (hb : s.busy = true) (a : Access) :
    (hostAccess a s).busy = true := by
  obtain ⟨ie, done, ovr, resp, draws, h, -⟩ := hostAccess_busy hb a
  rw [h]
  exact hb

/-- A run of one step more is the run from the next state. -/
theorem run_succ {s u : State} (h : step s = .next u) (k : Nat) :
    Host.Core.run Sys2Proof.core (k + 1) s = Host.Core.run Sys2Proof.core k u := by
  have hstep : Host.Core.step Sys2Proof.core s = .next u := h
  simp only [Host.Core.run, hstep]

/-- A step at the engine's turn is a run that completes the command. -/
theorem run_one_completes {s s₀ : State} (hb : s₀.busy = true) (h : step s = engineTurn s₀) :
    ∃ t, Host.Core.run Sys2Proof.core 1 s = .next t ∧ t.busy = false ∧ t.done = true := by
  obtain ⟨t, hturn, hdone⟩ := engineTurn_completes hb
  exact ⟨t, run_succ (h.trans hturn) 0, hdone⟩

/-- Settles O12, by induction on the inputs that wait: a host access leaves BUSY = 1 and one input
fewer, and the engine's turn, which comes at the latest when no input waits, completes the command. -/
theorem acceptedCommandsComplete : Obligations.AcceptedCommandsComplete := by
  intro s hb hrst
  induction hin : s.inputs generalizing s with
  | nil =>
    obtain ⟨t, hrun, hdone⟩ := run_one_completes hb (step_of_nil hin)
    exact ⟨1, t, by simp, hrun, hdone⟩
  | cons i rest ih =>
    have hnot : i.rst = false := hrst i (by simp [hin])
    obtain ⟨_, a | _⟩ := i
    case host =>
      cases hnot
      have hrest : (hostAccess a { s with inputs := rest }).inputs = rest := hostAccess_inputs a _
      obtain ⟨k, t, hk, hrun, hdone⟩ := ih (hostAccess a { s with inputs := rest })
        (hostAccess_keeps_busy (s := { s with inputs := rest }) hb a)
        (fun j hj => hrst j (by rw [hin]; exact List.mem_cons_of_mem _ (hrest ▸ hj))) hrest
      refine ⟨k + 1, t, by simp; omega, ?_, hdone⟩
      exact (run_succ ((step_of_cons hin).trans (applyInput_host a _)) k).trans hrun
    case engine =>
      cases hnot
      obtain ⟨t, hrun, hdone⟩ := run_one_completes (s₀ := { s with inputs := rest }) hb
        (step_of_cons hin)
      exact ⟨1, t, by simp, hrun, hdone⟩

end Sys2Proof.Machine
end

section

namespace Sys2Proof.Machine

open Sys2Proof.Safety

/-! ### VALIDATE by what the input holds (43_container.md R132) -/

/-- From any offset up to the end, records back to back reach the end or a record that does not parse.
-/
theorem recordPath_exists (f : Nat → Byte) {c e : Nat} (hc : c ≤ e) :
    ∃ recs pos, RecordPath f e c recs pos ∧ (pos = e ∨ ∃ b, pos ≠ e ∧ decodeAt f pos e = .bad b) := by
  rcases scan_cases f e hc (le_refl (e - c)) with ⟨recs, -, hpath⟩ | ⟨recs, pos, b, -, hpath, hne, hbad⟩
  · exact ⟨recs, e, hpath, .inl rfl⟩
  · exact ⟨recs, pos, hpath, .inr ⟨b, hne, hbad⟩⟩

/-- Settles O44: each of the path's records takes at least 12 bytes and ends by `e`. -/
theorem recordScanEnds : Obligations.RecordScanEnds := by
  intro f c e hc
  obtain ⟨recs, pos, hpath, hend⟩ := recordPath_exists f hc
  have hle := recordPath_le hpath hc
  exact ⟨recs, pos, hpath, hle.2, by omega, hend.imp_right fun ⟨b, _, hb⟩ => ⟨b, hb⟩⟩

/-- Cursors out of range fail before a byte is read. -/
theorem exec_validate_of_outside {s : State}
    (h : s.iend.toNat > ibufSize s.cfg ∨ s.icur.toNat > s.iend.toNat) :
    exec .validate s = .next (validateFail .rangeError s.icur s) := by
  simp only [exec, execValidate, if_pos ((cursorOutOfRange_iff s).mpr h)]

/-- Too few bytes, or other bytes than the signature. -/
theorem exec_validate_of_missing {s : State} (he : s.iend.toNat ≤ ibufSize s.cfg)
    (hc : s.icur.toNat ≤ s.iend.toNat)
    (h : s.iend.toNat - s.icur.toNat < 8 ∨ ¬ IbufHolds s s.icur.toNat signature) :
    exec .validate s = .next (validateFail .badSignature s.icur s) := by
  simp only [exec, execValidate, if_neg (cursorOutOfRange_of_inside he hc),
    if_pos ((signatureMissing_iff s).mpr h)]

section Signed

variable {s : State} {recs : List (Nat × Record)} (he : s.iend.toNat ≤ ibufSize s.cfg)
  (hc : s.icur.toNat + 8 ≤ s.iend.toNat) (hsig : IbufHolds s s.icur.toNat signature)
include he hc hsig

/-- The first record that does not parse: its failure, its diagnostics and its offset. -/
theorem exec_validate_of_bad {pos : Nat} {b : BadRecord}
    (hpath : RecordPath (ibufByte s) s.iend.toNat (s.icur.toNat + 8) recs pos)
    (hne : pos ≠ s.iend.toNat) (hbad : decodeAt (ibufByte s) pos s.iend.toNat = .bad b) :
    exec .validate s = .next (validateFail (badFailure b) (w32 pos) (diagnose b s)) := by
  have hcursor := cursorOutOfRange_of_inside he (by omega)
  have hscan := scan_of_bad hpath hc hne hbad le_rfl
  simp only [exec, execValidate, if_neg hcursor, if_neg (signatureMissing_of_holds hc hsig), hscan]

/-- A table that does not fit OBUF. -/
theorem exec_validate_of_full
    (hpath : RecordPath (ibufByte s) s.iend.toNat (s.icur.toNat + 8) recs s.iend.toNat)
    (hfull : s.ocur.toNat + 16 * recs.length > obufSize s.cfg) :
    exec .validate s = .next (validateFail .rangeError s.icur s) := by
  have hcursor := cursorOutOfRange_of_inside he (by omega)
  have hscan := scan_of_path hpath hc le_rfl
  simp only [exec, execValidate, if_neg hcursor, if_neg (signatureMissing_of_holds hc hsig), hscan,
    if_pos ((outOutOfRange_iff _ s).mpr hfull)]

end Signed

/-- Settles O42: each clause is the forward lemma of its failure; a bad record's failure and diagnostics
are the statement's by definition. -/
theorem validateReportsFirstFailure : Obligations.ValidateReportsFirstFailure := by
  refine fun s => ⟨exec_validate_of_outside, exec_validate_of_missing,
    fun recs pos he hc hsig hpath hne => ⟨?shortLength, ?shortType, ?shortData, ?shortCrc, ?mismatch⟩,
    fun recs he hc hsig => exec_validate_of_full he hc hsig⟩
  case shortLength => exact fun h => exec_validate_of_bad he hc hsig hpath hne h
  case shortType => exact fun len h => exec_validate_of_bad he hc hsig hpath hne h
  case shortData => exact fun len tag h => exec_validate_of_bad he hc hsig hpath hne h
  case shortCrc => exact fun len tag h => exec_validate_of_bad he hc hsig hpath hne h
  case mismatch => exact fun r h => exec_validate_of_bad he hc hsig hpath hne h

/-- Settles O45: the signature alone is a container without records, and its table is empty. -/
theorem emptyContainerValidates : Obligations.EmptyContainerValidates := by
  intro s hsig hend he hout
  refine (exec_validate_of_path (recs := []) he hend.ge hsig hend.symm hout).trans ?_
  rw [List.length_nil, Nat.mul_zero, Nat.add_zero, w32_toNat]
  rfl

/-! ### What the cursor commands find (44_control.md R143) -/

/-- What DECODE finds at ICUR, in the order of its checks; the cases are all there are. -/
inductive DecodeCase (s : State) : Prop where
  | outside : s.iend.toNat > ibufSize s.cfg ∨ s.icur.toNat > s.iend.toNat → DecodeCase s
  | ok (r : Record) (next : Nat) : s.iend.toNat ≤ ibufSize s.cfg → s.icur.toNat ≤ s.iend.toNat →
      decodeAt (ibufByte s) s.icur.toNat s.iend.toNat = .ok r next → DecodeCase s
  | bad (b : BadRecord) : s.iend.toNat ≤ ibufSize s.cfg → s.icur.toNat ≤ s.iend.toNat →
      decodeAt (ibufByte s) s.icur.toNat s.iend.toNat = .bad b → DecodeCase s

theorem decodeCase (s : State) : DecodeCase s := by
  by_cases hout : s.iend.toNat > ibufSize s.cfg ∨ s.icur.toNat > s.iend.toNat
  · exact .outside hout
  · cases hd : decodeAt (ibufByte s) s.icur.toNat s.iend.toNat with
    | ok r next => exact .ok r next (by omega) (by omega) hd
    | bad b => exact .bad b (by omega) (by omega) hd

/-- What SIGCHK finds at ICUR, in the order of its checks; the cases are all there are. -/
inductive SignatureCase (s : State) : Prop where
  | outside : s.iend.toNat > ibufSize s.cfg ∨ s.icur.toNat > s.iend.toNat → SignatureCase s
  | missing : s.iend.toNat ≤ ibufSize s.cfg → s.icur.toNat ≤ s.iend.toNat →
      s.iend.toNat - s.icur.toNat < 8 ∨ ¬ IbufHolds s s.icur.toNat signature → SignatureCase s
  | holds : s.iend.toNat ≤ ibufSize s.cfg → s.icur.toNat + 8 ≤ s.iend.toNat →
      IbufHolds s s.icur.toNat signature → SignatureCase s

theorem signatureCase (s : State) : SignatureCase s := by
  by_cases hout : s.iend.toNat > ibufSize s.cfg ∨ s.icur.toNat > s.iend.toNat
  · exact .outside hout
  by_cases hmiss : s.iend.toNat - s.icur.toNat < 8 ∨ ¬ IbufHolds s s.icur.toNat signature
  · exact .missing (by omega) (by omega) hmiss
  · exact .holds (by omega) (by omega) (not_not.mp (not_or.mp hmiss).2)

/-- What VALIDATE finds in the input, in the order of its checks; the cases are all there are. -/
inductive ContainerCase (s : State) : Prop where
  | outside : s.iend.toNat > ibufSize s.cfg ∨ s.icur.toNat > s.iend.toNat → ContainerCase s
  | missing : s.iend.toNat ≤ ibufSize s.cfg → s.icur.toNat ≤ s.iend.toNat →
      s.iend.toNat - s.icur.toNat < 8 ∨ ¬ IbufHolds s s.icur.toNat signature → ContainerCase s
  | bad (recs : List (Nat × Record)) (pos : Nat) (b : BadRecord) : s.iend.toNat ≤ ibufSize s.cfg →
      s.icur.toNat + 8 ≤ s.iend.toNat → IbufHolds s s.icur.toNat signature →
      RecordPath (ibufByte s) s.iend.toNat (s.icur.toNat + 8) recs pos → pos ≠ s.iend.toNat →
      decodeAt (ibufByte s) pos s.iend.toNat = .bad b → ContainerCase s
  | full (recs : List (Nat × Record)) : s.iend.toNat ≤ ibufSize s.cfg →
      s.icur.toNat + 8 ≤ s.iend.toNat → IbufHolds s s.icur.toNat signature →
      RecordPath (ibufByte s) s.iend.toNat (s.icur.toNat + 8) recs s.iend.toNat →
      s.ocur.toNat + 16 * recs.length > obufSize s.cfg → ContainerCase s
  | valid (recs : List (Nat × Record)) : s.iend.toNat ≤ ibufSize s.cfg →
      s.icur.toNat + 8 ≤ s.iend.toNat → IbufHolds s s.icur.toNat signature →
      RecordPath (ibufByte s) s.iend.toNat (s.icur.toNat + 8) recs s.iend.toNat →
      s.ocur.toNat + 16 * recs.length ≤ obufSize s.cfg → ContainerCase s

theorem containerCase (s : State) : ContainerCase s := by
  cases signatureCase s with
  | outside hout => exact .outside hout
  | missing he hc hmiss => exact .missing he hc hmiss
  | holds he hc hsig =>
    obtain ⟨recs, pos, hpath, rfl | ⟨b, hne, hbad⟩⟩ := recordPath_exists (ibufByte s) hc
    · by_cases hfull : s.ocur.toNat + 16 * recs.length > obufSize s.cfg
      · exact .full recs he hc hsig hpath hfull
      · exact .valid recs he hc hsig hpath (Nat.not_lt.mp hfull)
    · exact .bad recs pos b he hc hsig hpath hne hbad

end Sys2Proof.Machine
end

section

namespace Sys2Proof.Machine

open Sys2Proof.Safety

/-! ### A failed command repeats (60_exceptions.md R153) -/

section Repeats

variable {s : State} {b : BadRecord}

/-- DECODE on the state a bad record left: the diagnostics are no operands. -/
theorem exec_decode_repeats (he : s.iend.toNat ≤ ibufSize s.cfg) (hc : s.icur.toNat ≤ s.iend.toNat)
    (hbad : decodeAt (ibufByte s) s.icur.toNat s.iend.toNat = .bad b) :
    exec .decode (cursorFail (badFailure b) s.icur (diagnose b s)) =
      .next (cursorFail (badFailure b) s.icur (diagnose b s)) := by
  refine (exec_decode_of_bad (s := cursorFail (badFailure b) s.icur (diagnose b s)) (b := b) ?_ ?_ ?_).trans
    (by cases b <;> rfl)
  · cases b <;> exact he
  · cases b <;> exact hc
  · cases b <;> exact hbad

/-- VALIDATE on the state a bad record left. -/
theorem exec_validate_repeats {recs : List (Nat × Record)} {pos : Nat}
    (he : s.iend.toNat ≤ ibufSize s.cfg) (hc : s.icur.toNat + 8 ≤ s.iend.toNat)
    (hsig : IbufHolds s s.icur.toNat signature)
    (hpath : RecordPath (ibufByte s) s.iend.toNat (s.icur.toNat + 8) recs pos)
    (hne : pos ≠ s.iend.toNat) (hbad : decodeAt (ibufByte s) pos s.iend.toNat = .bad b) :
    exec .validate (validateFail (badFailure b) (w32 pos) (diagnose b s)) =
      .next (validateFail (badFailure b) (w32 pos) (diagnose b s)) := by
  refine (exec_validate_of_bad (s := validateFail (badFailure b) (w32 pos) (diagnose b s)) (recs := recs)
    (pos := pos) (b := b) ?_ ?_ ?_ ?_ ?_ ?_).trans (by cases b <;> rfl)
  · cases b <;> exact he
  · cases b <;> exact hc
  · cases b <;> exact hsig
  · cases b <;> exact hpath
  · cases b <;> exact hne
  · cases b <;> exact hbad

end Repeats

/-- The command has a next state from which, if it is a failure, it gives that state again. -/
def Repeats (i : Instr) (s : State) : Prop :=
  ∃ u, exec i s = .next u ∧ (u.err = true → exec i u = .next u)

theorem tagstr_repeats (s : State) : Repeats .tagstr s := by
  by_cases hlen : s.slen.toNat = 4
  · by_cases hout : s.src.toNat + 4 > ibufSize s.cfg
    · exact ⟨_, exec_tagstr_of_outside hlen hout,
        fun _ => exec_tagstr_of_outside (s := failed 8 0 s) hlen hout⟩
    · have hin : s.src.toNat + 4 ≤ ibufSize s.cfg := by omega
      by_cases hall : tagAllLetters (be32At (ibufByte s) s.src.toNat) = true
      · exact ⟨_, (exec_tagstr_of_inside hlen hin).trans (congrArg _ (if_pos hall)), nofun⟩
      · exact ⟨_, (exec_tagstr_of_inside hlen hin).trans (congrArg _ (if_neg hall)), fun _ =>
          (exec_tagstr_of_inside (s := failed 1 0 s) hlen hin).trans (congrArg _ (if_neg hall))⟩
  · exact ⟨_, exec_tagstr_of_length_ne hlen, fun _ => exec_tagstr_of_length_ne (s := failed 1 0 s) hlen⟩

theorem crc_repeats (s : State) : Repeats .crc s := by
  by_cases hout : s.src.toNat + s.slen.toNat > ibufSize s.cfg
  · exact ⟨_, exec_crc_of_outside hout, fun _ => exec_crc_of_outside (s := failed 8 0 s) hout⟩
  · exact ⟨_, exec_crc_of_inside (by omega), nofun⟩

theorem encode_repeats (s : State) : Repeats .encode s := by
  by_cases hout : s.src.toNat + s.slen.toNat > ibufSize s.cfg ∨
      s.ocur.toNat + 12 + s.slen.toNat > obufSize s.cfg
  · exact ⟨_, exec_encode_of_outside hout, fun _ => exec_encode_of_outside (s := failed 8 0 s) hout⟩
  · exact ⟨_, exec_encode_of_fits (by omega) (by omega), nofun⟩

theorem decode_repeats (s : State) : Repeats .decode s := by
  cases decodeCase s with
  | outside hout => exact ⟨_, exec_decode_of_outside hout, fun _ =>
      exec_decode_of_outside (s := failed 8 0 { s with errpos := s.icur, cerr := true }) hout⟩
  | ok r next he hc hd => exact ⟨_, exec_decode_of_ok he hc hd, nofun⟩
  | bad b he hc hd =>
    refine ⟨_, exec_decode_of_bad he hc hd, fun _ => ?_⟩
    rw [← cursorFail_eq]
    exact exec_decode_repeats he hc hd

theorem sigchk_repeats (s : State) : Repeats .sigchk s := by
  cases signatureCase s with
  | outside hout => exact ⟨_, exec_sigchk_of_outside hout, fun _ =>
      exec_sigchk_of_outside (s := failed 8 0 { s with errpos := s.icur, cerr := true }) hout⟩
  | missing he hc hmiss => exact ⟨_, exec_sigchk_of_missing he hc hmiss, fun _ =>
      exec_sigchk_of_missing (s := failed 4 0 { s with errpos := s.icur, cerr := true }) he hc hmiss⟩
  | holds he hc hsig => exact ⟨_, exec_sigchk_of_holds he hc hsig, nofun⟩

theorem sigemit_repeats (s : State) : Repeats .sigemit s := by
  by_cases hout : s.ocur.toNat + 8 > obufSize s.cfg
  · exact ⟨_, exec_sigemit_of_outside hout, fun _ => exec_sigemit_of_outside (s := failed 8 0 s) hout⟩
  · exact ⟨_, exec_sigemit_of_fits (by omega), nofun⟩

theorem validate_repeats (s : State) : Repeats .validate s := by
  cases containerCase s with
  | outside hout => exact ⟨_, exec_validate_of_outside hout, fun _ =>
      exec_validate_of_outside (s := validateFail .rangeError s.icur s) hout⟩
  | missing he hc hmiss => exact ⟨_, exec_validate_of_missing he hc hmiss, fun _ =>
      exec_validate_of_missing (s := validateFail .badSignature s.icur s) he hc hmiss⟩
  | bad recs pos b he hc hsig hpath hne hbad =>
    exact ⟨_, exec_validate_of_bad he hc hsig hpath hne hbad, fun _ =>
      exec_validate_repeats he hc hsig hpath hne hbad⟩
  | full recs he hc hsig hpath hfull =>
    exact ⟨_, exec_validate_of_full he hc hsig hpath hfull, fun _ =>
      exec_validate_of_full (s := validateFail .rangeError s.icur s) he hc hsig hpath hfull⟩
  | valid recs he hc hsig hpath hfit => exact ⟨_, exec_validate_of_path he hc hsig hpath hfit, nofun⟩

/-- A failure writes nothing that the check which failed looks at, so every command repeats. -/
theorem exec_repeats (i : Instr) (s : State) : Repeats i s := by
  cases i with
  | nop => exact ⟨_, rfl, nofun⟩
  | tagstr => exact tagstr_repeats s
  | crc => exact crc_repeats s
  | encode => exact encode_repeats s
  | decode => exact decode_repeats s
  | sigchk => exact sigchk_repeats s
  | sigemit => exact sigemit_repeats s
  | validate => exact validate_repeats s

/-- Settles O52: `exec_repeats`, for the one next state a command has. -/
theorem failedCommandRepeats : Obligations.FailedCommandRepeats := by
  intro i s t h herr
  obtain ⟨u, hu, hrep⟩ := exec_repeats i s
  rw [h] at hu
  cases hu
  exact hrep herr

/-! ### Accesses during BUSY do not reach the command (20_memory.md R60, R64) -/

/-- `s` with IE, OVR, the response and the index of draws of a host access. -/
def withBus (ie ovr : Bool) (resp : Response) (draws : Nat) (s : State) : State :=
  { s with ie := ie, ovr := ovr, resp := resp, draws := draws }

section WithBus

variable (ie ovr : Bool) (resp : Response) (draws : Nat) {s t : State}

/-- VALIDATE looks at nothing a host access during BUSY may change, DONE included. -/
theorem exec_validate_withBus (h : exec .validate s = .next t) (done : Bool) :
    exec .validate (withBus ie ovr resp draws { s with done := done }) =
      .next (withBus ie ovr resp draws t) := by
  cases containerCase s with
  | outside hout =>
    rw [exec_validate_of_outside hout] at h
    cases h
    exact exec_validate_of_outside hout
  | missing he hc hmiss =>
    rw [exec_validate_of_missing he hc hmiss] at h
    cases h
    exact exec_validate_of_missing he hc hmiss
  | bad recs pos b he hc hsig hpath hne hbad =>
    rw [exec_validate_of_bad he hc hsig hpath hne hbad] at h
    cases h
    have hfail := exec_validate_of_bad (s := withBus ie ovr resp draws { s with done := done })
      he hc hsig hpath hne hbad
    cases b <;> exact hfail
  | full recs he hc hsig hpath hfull =>
    rw [exec_validate_of_full he hc hsig hpath hfull] at h
    cases h
    exact exec_validate_of_full he hc hsig hpath hfull
  | valid recs he hc hsig hpath hfit =>
    rw [exec_validate_of_path he hc hsig hpath hfit] at h
    cases h
    exact exec_validate_of_path he hc hsig hpath hfit

/-- DECODE looks at nothing a host access during BUSY may change, DONE included. -/
theorem exec_decode_withBus (h : exec .decode s = .next t) (done : Bool) :
    exec .decode (withBus ie ovr resp draws { s with done := done }) =
      .next (withBus ie ovr resp draws t) := by
  cases decodeCase s with
  | outside hout =>
    rw [exec_decode_of_outside hout] at h
    cases h
    exact exec_decode_of_outside hout
  | ok r next he hc hd =>
    rw [exec_decode_of_ok he hc hd] at h
    cases h
    exact exec_decode_of_ok (s := withBus ie ovr resp draws { s with done := done }) he hc hd
  | bad b he hc hd =>
    rw [exec_decode_of_bad he hc hd] at h
    cases h
    have hfail := exec_decode_of_bad (s := withBus ie ovr resp draws { s with done := done }) he hc hd
    cases b <;> exact hfail

/-- The other commands' checks are on fields that stay, so `withBus` passes through them into each
outcome. -/
theorem exec_withBus {i : Instr} (h : exec i s = .next t) (done : Bool) :
    exec i (withBus ie ovr resp draws { s with done := done }) = .next (withBus ie ovr resp draws t) := by
  have push := apply_ite (withBus ie ovr resp draws)
  cases i with
  | nop => cases h; rfl
  | tagstr => cases h; dsimp only; simp only [push]; rfl
  | crc => cases h; simp only [push]; rfl
  | encode => cases h; simp only [push]; rfl
  | decode => exact exec_decode_withBus ie ovr resp draws h done
  | sigchk => cases h; simp only [push]; rfl
  | sigemit => cases h; simp only [push]; rfl
  | validate => exact exec_validate_withBus ie ovr resp draws h done

end WithBus

/-- Settles O54: an access during BUSY changes IE, DONE, OVR, the response and the index of draws alone,
and the completion writes DONE. -/
theorem busyAccessesDoNotDisturb : Obligations.BusyAccessesDoNotDisturb := by
  intro i a s t hb h
  obtain ⟨ie, done, ovr, resp, draws, ha, -⟩ := hostAccess_busy hb a
  rw [ha]
  exact exec_withBus ie ovr resp draws h done

/-! ### Bytes at or after IEND are not read (42_chunk.md R121, 43_container.md R132) -/

theorem recordPath_congr {f g : Nat → Byte} {e stop : Nat} (hfg : ∀ a, a < e → g a = f a)
    {recs : List (Nat × Record)} {c : Nat} (h : RecordPath f e c recs stop) : RecordPath g e c recs stop := by
  induction recs generalizing c with
  | nil => exact h
  | cons p recs ih =>
    obtain ⟨hpos, next, hd, hrest⟩ := h
    exact ⟨hpos, next, (decodeAt_congr hfg).trans hd, ih hrest⟩

section Beyond

variable {s : State} {m : Memory} (hm : ∀ a, a < s.iend.toNat → ibufByte { s with ibuf := m } a = ibufByte s a)
include hm

theorem ibufHolds_congr (hc : s.icur.toNat + 8 ≤ s.iend.toNat) :
    IbufHolds { s with ibuf := m } s.icur.toNat signature ↔ IbufHolds s s.icur.toNat signature := by
  refine forall₂_congr fun i hi => ?_
  change i < 8 at hi
  rw [hm _ (by omega)]

/-- The signature check reads eight bytes only where there are as many. -/
theorem missing_congr :
    (s.iend.toNat - s.icur.toNat < 8 ∨ ¬ IbufHolds { s with ibuf := m } s.icur.toNat signature) ↔
      (s.iend.toNat - s.icur.toNat < 8 ∨ ¬ IbufHolds s s.icur.toNat signature) := by
  by_cases hshort : s.iend.toNat - s.icur.toNat < 8
  · exact iff_of_true (.inl hshort) (.inl hshort)
  · rw [ibufHolds_congr hm (by omega)]

theorem exec_decode_withIbuf {t : State} (h : exec .decode s = .next t) :
    exec .decode { s with ibuf := m } = .next { t with ibuf := m } := by
  have hcongr := decodeAt_congr (c := s.icur.toNat) hm
  cases decodeCase s with
  | outside hout =>
    rw [exec_decode_of_outside hout] at h
    cases h
    exact exec_decode_of_outside (s := { s with ibuf := m }) hout
  | ok r next he hc hd =>
    rw [exec_decode_of_ok he hc hd] at h
    cases h
    exact exec_decode_of_ok (s := { s with ibuf := m }) he hc (hcongr.trans hd)
  | bad b he hc hd =>
    rw [exec_decode_of_bad he hc hd] at h
    cases h
    have hfail := exec_decode_of_bad (s := { s with ibuf := m }) he hc (hcongr.trans hd)
    cases b <;> exact hfail

theorem exec_sigchk_withIbuf {t : State} (h : exec .sigchk s = .next t) :
    exec .sigchk { s with ibuf := m } = .next { t with ibuf := m } := by
  cases signatureCase s with
  | outside hout =>
    rw [exec_sigchk_of_outside hout] at h
    cases h
    exact exec_sigchk_of_outside (s := { s with ibuf := m }) hout
  | missing he hc hmiss =>
    rw [exec_sigchk_of_missing he hc hmiss] at h
    cases h
    exact exec_sigchk_of_missing (s := { s with ibuf := m }) he hc ((missing_congr hm).mpr hmiss)
  | holds he hc hsig =>
    rw [exec_sigchk_of_holds he hc hsig] at h
    cases h
    exact exec_sigchk_of_holds (s := { s with ibuf := m }) he hc ((ibufHolds_congr hm hc).mpr hsig)

theorem exec_validate_withIbuf {t : State} (h : exec .validate s = .next t) :
    exec .validate { s with ibuf := m } = .next { t with ibuf := m } := by
  cases containerCase s with
  | outside hout =>
    rw [exec_validate_of_outside hout] at h
    cases h
    exact exec_validate_of_outside (s := { s with ibuf := m }) hout
  | missing he hc hmiss =>
    rw [exec_validate_of_missing he hc hmiss] at h
    cases h
    exact exec_validate_of_missing (s := { s with ibuf := m }) he hc ((missing_congr hm).mpr hmiss)
  | bad recs pos b he hc hsig hpath hne hbad =>
    rw [exec_validate_of_bad he hc hsig hpath hne hbad] at h
    cases h
    have hfail := exec_validate_of_bad (s := { s with ibuf := m }) he hc ((ibufHolds_congr hm hc).mpr hsig)
      (recordPath_congr hm hpath) hne ((decodeAt_congr hm).trans hbad)
    cases b <;> exact hfail
  | full recs he hc hsig hpath hfull =>
    rw [exec_validate_of_full he hc hsig hpath hfull] at h
    cases h
    exact exec_validate_of_full (s := { s with ibuf := m }) he hc ((ibufHolds_congr hm hc).mpr hsig)
      (recordPath_congr hm hpath) hfull
  | valid recs he hc hsig hpath hfit =>
    rw [exec_validate_of_path he hc hsig hpath hfit] at h
    cases h
    exact exec_validate_of_path (s := { s with ibuf := m }) he hc ((ibufHolds_congr hm hc).mpr hsig)
      (recordPath_congr hm hpath) hfit

end Beyond

/-- Settles O55: each check of the three commands answers alike on the two contents. -/
theorem bytesBeyondIendAreNotRead : Obligations.BytesBeyondIendAreNotRead := by
  intro i s t m hi hm h
  simp only [List.mem_cons, List.not_mem_nil, or_false] at hi
  rcases hi with rfl | rfl | rfl
  · exact exec_decode_withIbuf hm h
  · exact exec_sigchk_withIbuf hm h
  · exact exec_validate_withIbuf hm h

end Sys2Proof.Machine
end

section

namespace Sys2Proof.Machine

open Sys2Proof.Safety

/-! ### Writes to CMD and the operand registers (44_control.md R141, 10_state.md R41 to R44) -/

/-- A register write is taken by the bus, with the effect `writeReg` gives it. -/
theorem taken_wr32_reg (s : State) (r : Reg) (v : Word) :
    Taken (wr32 (regOffset r) v s) (writeReg r v s) := by
  rw [wr32_reg]
  exact taken_written _

/-- Settles O13: CMD is an operand register's guard with acceptance as its write. -/
theorem commandAcceptance : Obligations.CommandAcceptance :=
  fun _ w => ⟨fun hb => taken_wr32_cmd hb w, fun hb => taken_wr32_dropped hb (by decide) w⟩

/-- Settles O20: while BUSY = 0 the guard of each operand register lets the write through. -/
theorem operandWritesWhenIdle : Obligations.OperandWritesWhenIdle := by
  intro s v hb
  have hwrite (r : Reg) {u : State} (hr : writeReg r v s = u) : Taken (wr32 (regOffset r) v s) u :=
    hr ▸ taken_wr32_reg s r v
  refine ⟨hwrite .tag ?_, hwrite .src ?_, hwrite .slen ?_, hwrite .ocur ?_, hwrite .icur ?_,
    hwrite .iend ?_⟩ <;> simp only [writeReg, unlessBusy_idle hb]

/-! ### Reads of registers (10_state.md R30, 20_memory.md R59, R61) -/

theorem readReg_of_idle {s : State} (hb : s.busy = false) (r : Reg) :
    readReg r s = respond (.word (regValue r s)) s := by
  simp [readReg, hb]

theorem readReg_of_drawn {s : State} (hb : s.busy = true) {r : Reg} (hr : engineWritten r = true) :
    readReg r s = { s with resp := .word (Config.draw s.draws), draws := s.draws + 1 } := by
  simp [readReg, hb, hr, consumeDraw, respond, nextDraw]

theorem readReg_status_of_busy {s : State} (hb : s.busy = true) : readReg .status s =
    { s with resp := .word (statusWordWith ((nextDraw s).setWidth 2) s), draws := s.draws + 1 } := by
  simp [readReg, hb, engineWritten, consumeDraw, respond]

/-- Settles O19: the list is every register's offset with its value, and the offsets above hold no
register. -/
theorem registerReadsWhenIdle : Obligations.RegisterReadsWhenIdle := by
  refine ⟨fun s hb p hp => ?_, fun s off hlo hhi h4 => rd32_reserved s hlo hhi h4⟩
  have hmem : p ∈ allRegs.map (fun r => (regOffset r, regValue r s)) := hp
  obtain ⟨r, -, rfl⟩ := List.mem_map.mp hmem
  exact (rd32_reg s r).trans (readReg_of_idle hb r)

/-- A response to the host reaches no register. -/
theorem regValue_respond (r : Reg) (x : Response) (s : State) : regValue r (respond x s) = regValue r s := by
  cases r <;> rfl

/-- While BUSY = 0 what a read answers does not depend on the response before it. -/
theorem readTarget_respond {s : State} (hb : s.busy = false) (t : Target) (w : Width) (x : Response) :
    readTarget t w (respond x s) = readTarget t w s := by
  cases t with
  | regs off =>
    simp only [readTarget]
    cases regAt off with
    | none => rfl
    | some r =>
      have hb' : (respond x s).busy = false := hb
      simp only [readReg_of_idle hb, readReg_of_idle hb', regValue_respond]
      rfl
  | obuf a =>
    simp only [readTarget, respond_busy, hb]
    rfl
  | _ => rfl

theorem hostAccess_read_respond {s : State} (hb : s.busy = false) (w : Width) (addr : Nat) (x : Response) :
    hostAccess (.read w addr) (respond x s) = hostAccess (.read w addr) s := by
  simp only [hostAccess, respond_cfg, readTarget_respond hb]
  rfl

/-- Settles O18: a read is no write, so it changes the response and the index of draws alone; while BUSY
= 0 it uses no draw, and a second read does not look at the first one's response. -/
theorem readsHaveNoSideEffect : Obligations.ReadsHaveNoSideEffect := by
  intro s w addr
  rcases hostAccess_cases (.read w addr) s with ⟨r, d, h, hd⟩ | ⟨_, _, _, _, hwrite, -⟩
  · refine ⟨r, d, h, fun hb => ⟨hd hb, ?_⟩⟩
    have hresp : hostAccess (.read w addr) s = respond r s := by
      rw [h, hd hb]
      rfl
    exact (congrArg _ hresp).trans (hostAccess_read_respond hb w addr r)
  · cases hwrite

/-! ### STATUS by its bits (10_state.md R39) -/

/-- Where each field of a STATUS word stands. -/
theorem statusWordWith_getLsbD (c : BitVec 2) (s : State) {j : Nat} (hj : j < 32) :
    (statusWordWith c s).getLsbD j =
      ((s.busy && decide (0 = j)) || (s.done && decide (1 = j)) || (s.err && decide (2 = j)) ||
        (s.ovr && decide (3 = j)) || (decide (4 ≤ j) && s.ecode.getLsbD (j - 4)) ||
        (decide (8 ≤ j) && s.tfield.getLsbD (j - 8)) || (decide (10 ≤ j) && c.getLsbD (j - 10))) := by
  have hfield {n : Nat} (x : BitVec n) (k : Nat) :
      (x.setWidth 32 <<< k).getLsbD j = (decide (k ≤ j) && x.getLsbD (j - k)) := by
    simp [hj, ← decide_not]
  simp only [statusWordWith, BitVec.getLsbD_or, getLsbD_bitAt, hfield]
  simp

/-- Every field of a STATUS word. -/
theorem statusWordWith_fields (c : BitVec 2) (s : State) :
    (statusWordWith c s).getLsbD 0 = s.busy ∧ (statusWordWith c s).getLsbD 1 = s.done ∧
    (statusWordWith c s).getLsbD 2 = s.err ∧ (statusWordWith c s).getLsbD 3 = s.ovr ∧
    (statusWordWith c s).extractLsb' 4 4 = s.ecode ∧ (statusWordWith c s).extractLsb' 8 2 = s.tfield ∧
    (statusWordWith c s).extractLsb' 10 2 = c ∧ (statusWordWith c s).extractLsb' 12 20 = 0 := by
  refine ⟨?_, ?_, ?_, ?_, ?ecode, ?tfield, ?cstate, ?rest⟩
  case ecode | tfield | cstate =>
    refine BitVec.eq_of_getLsbD_eq fun i hi => ?_
    rw [BitVec.getLsbD_extractLsb', statusWordWith_getLsbD c s (by omega)]
    interval_cases i <;> simp
  case rest =>
    refine BitVec.eq_of_getLsbD_eq fun i hi => ?_
    rw [BitVec.getLsbD_extractLsb', statusWordWith_getLsbD c s (by omega)]
    have hecode : s.ecode.getLsbD (12 + i - 4) = false := BitVec.getLsbD_of_ge _ _ (by omega)
    have htfield : s.tfield.getLsbD (12 + i - 8) = false := BitVec.getLsbD_of_ge _ _ (by omega)
    have hc : c.getLsbD (12 + i - 10) = false := BitVec.getLsbD_of_ge _ _ (by omega)
    simp [hecode, htfield, hc, show 0 ≠ 12 + i ∧ 1 ≠ 12 + i ∧ 2 ≠ 12 + i ∧ 3 ≠ 12 + i by omega]
  all_goals
    rw [statusWordWith_getLsbD c s (by omega)]
    simp

/-- The fields below CSTATE do not depend on it. -/
theorem statusWordWith_low (c d : BitVec 2) (s : State) :
    (statusWordWith c s).extractLsb' 0 10 = (statusWordWith d s).extractLsb' 0 10 := by
  refine BitVec.eq_of_getLsbD_eq fun i hi => ?_
  rw [BitVec.getLsbD_extractLsb', BitVec.getLsbD_extractLsb', statusWordWith_getLsbD c s (by omega),
    statusWordWith_getLsbD d s (by omega)]
  simp [show ¬ 10 ≤ i by omega]

/-- Settles O22: the fields are those of any STATUS word at CSTATE, and the write is not guarded. -/
theorem statusLayoutAndWrite : Obligations.StatusLayoutAndWrite := by
  intro s v
  obtain ⟨h0, h1, h2, h3, hecode, htfield, hcstate, hrest⟩ := statusWordWith_fields (cstate s) s
  exact ⟨h0, h1, h2, h3, hecode, htfield, hcstate, hrest, taken_wr32_reg s .status v⟩

/-! ### Reads during BUSY (20_memory.md R61) -/

/-- The registers whose read during BUSY is a draw. -/
def drawnRegs : List Reg :=
  [.tag, .tflags, .ocur, .icur, .rlen, .rtag, .rcrc, .ccrc, .poff, .count, .errpos, .rtflags]

/-- The registers but STATUS that no running command writes. -/
def storedRegs : List Reg := [.id, .caps, .ctrl, .cmd, .src, .slen, .iend]

theorem engineWritten_of_drawn : ∀ r ∈ drawnRegs, engineWritten r = true := by decide

theorem stored_not_engineWritten : ∀ r ∈ storedRegs, engineWritten r = false ∧ r ≠ .status := by decide

/-- Settles O15: the two lists are the offsets of `drawnRegs` and `storedRegs`; IBUF is read as it
stands and OBUF as a draw. -/
theorem readsDuringBusyAreDraws : Obligations.ReadsDuringBusyAreDraws := by
  intro s hb hc
  refine ⟨fun off hoff => ?drawn, ⟨statusWordWith ((nextDraw s).setWidth 2) s, ?status,
    statusWordWith_low _ _ s, ?cstate, ?upper⟩, fun p hp => ?stored,
    fun a ha => rd8_ibuf hc ha, fun a ha h4 => rd32_ibuf hc ha h4, fun a ha => ?obuf8, fun a ha h4 => ?obuf32⟩
  case drawn =>
    have hmem : off ∈ drawnRegs.map regOffset := hoff
    obtain ⟨r, hr, rfl⟩ := List.mem_map.mp hmem
    exact (rd32_reg s r).trans (readReg_of_drawn hb (engineWritten_of_drawn r hr))
  case status => exact (rd32_reg s .status).trans (readReg_status_of_busy hb)
  case cstate =>
    obtain ⟨-, -, -, -, -, -, hcstate, -⟩ := statusWordWith_fields ((nextDraw s).setWidth 2) s
    exact hcstate.trans (BitVec.setWidth_eq_extractLsb' (by omega))
  case upper =>
    obtain ⟨-, -, -, -, -, -, -, hupper⟩ := statusWordWith_fields ((nextDraw s).setWidth 2) s
    exact hupper
  case stored =>
    have hmem : p ∈ storedRegs.map (fun r => (regOffset r, regValue r s)) := hp
    obtain ⟨r, hr, rfl⟩ := List.mem_map.mp hmem
    obtain ⟨hwritten, hstatus⟩ := stored_not_engineWritten r hr
    exact (rd32_reg s r).trans (readReg_of_host_written hwritten hstatus s)
  case obuf8 => exact (rd8_obuf hc ha).trans (if_pos hb)
  case obuf32 => exact (rd32_obuf hc ha h4).trans (if_pos hb)

/-! ### The lanes of a buffer (20_memory.md R56) -/

/-- A word written at `a`, byte by byte. -/
theorem lanes_of_word (v : Word) (a x : Nat) (old : Byte) :
    (if a ≤ x ∧ x < a + 4 then (bytesBe32 v).getD (x - a) 0 else old) =
      if x = a then v.extractLsb' 24 8 else if x = a + 1 then v.extractLsb' 16 8
      else if x = a + 2 then v.extractLsb' 8 8 else if x = a + 3 then v.extractLsb' 0 8 else old := by
  by_cases hx : a ≤ x ∧ x < a + 4
  · obtain ⟨k, rfl⟩ := Nat.exists_eq_add_of_le hx.1
    have hk : k < 4 := by omega
    interval_cases k <;> simp [bytesBe32, byteOf]
  · rw [if_neg hx, if_neg (by omega), if_neg (by omega), if_neg (by omega), if_neg (by omega)]

/-- A byte written at `a`. -/
theorem lane_of_byte (b : Byte) (a x : Nat) (old : Byte) :
    (if a ≤ x ∧ x < a + 1 then [b].getD (x - a) 0 else old) = if x = a then b else old := by
  by_cases hx : x = a
  · subst hx
    simp
  · rw [if_neg hx, if_neg (by omega)]

/-- A guarded write while BUSY = 0 is taken and performed. -/
theorem taken_unlessBusy_idle {s : State} (hb : s.busy = false) (f : State → State) :
    Taken (respond .written (unlessBusy f s)) (f s) := by
  rw [unlessBusy_idle hb]
  exact taken_written _

/-- Settles O17: a write is one stored byte string, read back byte by byte; a read is the byte, or
`be32At`. -/
theorem bufferLanesAreBigEndian : Obligations.BufferLanesAreBigEndian := by
  intro s hb hc
  refine ⟨fun a v ha h4 => ⟨Memory.storeBytes s.ibuf a (bytesBe32 v), ?iw32, fun x => ?ix32⟩,
    fun a b ha => ⟨Memory.storeBytes s.ibuf a [b], ?iw8, fun x => ?ix8⟩,
    fun a ha => rd8_ibuf hc ha, fun a ha h4 => rd32_ibuf hc ha h4,
    fun a v ha h4 => ⟨Memory.storeBytes s.obuf a (bytesBe32 v), ?ow32, fun x => ?ox32⟩,
    fun a b ha => ⟨Memory.storeBytes s.obuf a [b], ?ow8, fun x => ?ox8⟩,
    fun a ha => ?or8, fun a ha h4 => ?or32⟩
  case iw32 => exact wr32_ibuf hc ha h4 v ▸ taken_unlessBusy_idle hb _
  case ix32 => exact (ibufByte_putIbuf a (bytesBe32 v) s x).trans (lanes_of_word v a x _)
  case iw8 => exact wr8_ibuf hc ha b ▸ taken_unlessBusy_idle hb _
  case ix8 => exact (ibufByte_putIbuf a [b] s x).trans (lane_of_byte b a x _)
  case ow32 => exact wr32_obuf hc ha h4 v ▸ taken_unlessBusy_idle hb _
  case ox32 => exact (obufByte_putObuf a (bytesBe32 v) s x).trans (lanes_of_word v a x _)
  case ow8 => exact wr8_obuf hc ha b ▸ taken_unlessBusy_idle hb _
  case ox8 => exact (obufByte_putObuf a [b] s x).trans (lane_of_byte b a x _)
  case or8 => exact (rd8_obuf hc ha).trans (if_neg (by simp [hb]))
  case or32 => exact (rd32_obuf hc ha h4).trans (if_neg (by simp [hb]))

end Sys2Proof.Machine
end

section

namespace Sys2Proof.Machine

open Sys2Proof.Safety

/-! ### Who writes a buffer byte (20_memory.md R69) -/

theorem writtenBytes_length (v : Word) (w : Width) :
    (writtenBytes v w).length = if w = .w8 then 1 else if w = .w32 then 4 else 0 := by
  cases w <;> rfl

/-- The byte `a` of the window at `base` lies under an accepted access of width `w` at `addr`. -/
def Covers (s : State) (window : Nat) (w : Width) (addr a : Nat) : Prop :=
  s.busy = false ∧ addr ≤ s.cfg.base + window + a ∧
    s.cfg.base + window + a < addr + (if w = .w8 then 1 else if w = .w32 then 4 else 0)

section Write

variable {s t : State} {w : Width} {addr a : Nat} {v : Word} (he : WriteEffect s w addr v t)
include he

/-- A write changes an IBUF byte only where it lies over it, while BUSY = 0. -/
theorem writeEffect_ibufByte (hne : ibufByte t a ≠ ibufByte s a) : Covers s 0x40000 w addr a := by
  cases he with
  | ibuf x hb haddr =>
    rw [ibufByte_putIbuf] at hne
    split at hne
    · next hin =>
      rw [writtenBytes_length] at hin
      exact ⟨hb, by omega, by omega⟩
    · exact absurd rfl hne
  | _ => exact absurd rfl hne

/-- A write changes an OBUF byte only where it lies over it, while BUSY = 0. -/
theorem writeEffect_obufByte (hne : obufByte t a ≠ obufByte s a) : Covers s 0x80000 w addr a := by
  cases he with
  | obuf x hb haddr =>
    rw [obufByte_putObuf] at hne
    split at hne
    · next hin =>
      rw [writtenBytes_length] at hin
      exact ⟨hb, by omega, by omega⟩
    · exact absurd rfl hne
  | _ => exact absurd rfl hne

end Write

section Host

variable {s : State} {x : Access} {a : Nat}

/-- A host access changes an IBUF byte only as a write over it. -/
theorem hostAccess_ibufByte (hne : ibufByte (hostAccess x s) a ≠ ibufByte s a) :
    ∃ w addr v, x = .write w addr v ∧ Covers s 0x40000 w addr a := by
  rcases hostAccess_cases x s with ⟨r, d, h, -⟩ | ⟨w, addr, v, t, rfl, he, h⟩
  · rw [h] at hne
    exact absurd rfl hne
  · rw [h] at hne
    exact ⟨w, addr, v, rfl, writeEffect_ibufByte he hne⟩

/-- A host access changes an OBUF byte only as a write over it. -/
theorem hostAccess_obufByte (hne : obufByte (hostAccess x s) a ≠ obufByte s a) :
    ∃ w addr v, x = .write w addr v ∧ Covers s 0x80000 w addr a := by
  rcases hostAccess_cases x s with ⟨r, d, h, -⟩ | ⟨w, addr, v, t, rfl, he, h⟩
  · rw [h] at hne
    exact absurd rfl hne
  · rw [h] at hne
    exact ⟨w, addr, v, rfl, writeEffect_obufByte he hne⟩

end Host

/-- A command changes no IBUF byte. -/
theorem exec_ibufByte {i : Instr} {s t : State} (h : exec i s = .next t) : ibufByte t = ibufByte s := by
  obtain ⟨-, -, -, -, -, -, -, hibuf, -, -, -, hresets⟩ := exec_frame h
  funext a
  simp only [ibufByte, hibuf, hresets]

/-- A command changes an OBUF byte only between the old and the new OCUR, as a successful ENCODE,
SIGEMIT or VALIDATE. -/
theorem exec_obufByte {i : Instr} {s t : State} (hcfg : s.cfg.wellFormed = true) (h : exec i s = .next t)
    {a : Nat} (hne : obufByte t a ≠ obufByte s a) :
    t.err = false ∧ s.ocur.toNat ≤ a ∧ a < t.ocur.toNat ∧ i ∈ [Instr.encode, .sigemit, .validate] := by
  obtain ⟨-, -, -, -, -, -, -, -, -, -, -, hresets⟩ := exec_frame h
  have hsize := obufSize_lt hcfg
  rcases exec_obuf h with hsame | ⟨bs, hobuf, hfit, hocur, herr, hi⟩
  · exact absurd (by simp only [obufByte, hsame, hresets]) hne
  · rw [hocur, w32_val (by omega)]
    by_contra hout
    have hunder : ¬ (s.ocur.toNat ≤ a ∧ a < s.ocur.toNat + bs.length) := fun ⟨hlo, hhi⟩ =>
      hout ⟨herr, hlo, hhi, hi⟩
    exact hne (by simp only [obufByte, hobuf, hresets, byteAt_storeBytes, if_neg hunder])

/-- Settles O56: a step is a reset, a host access or the engine's turn, and an illegal word's completion
writes no buffer. -/
theorem whoWritesTheBuffers : Obligations.WhoWritesTheBuffers := by
  intro s t a hcfg h hostWrites reset
  have hhost {x : Access} {rest : List Input} {window : Nat} (hin : s.inputs = ⟨false, .host x⟩ :: rest)
      (hx : ∃ w addr v, x = .write w addr v ∧ Covers (popInput s) window w addr a) :
      hostWrites window := by
    obtain ⟨w, addr, v, rfl, hb, hlo, hhi⟩ := hx
    exact ⟨rest, w, addr, v, hin, hb, hlo, hhi⟩
  rcases step_cases h with ⟨i, rest, hin, hrst, -⟩ | ⟨x, rest, hin, rfl⟩ | hturn
  · have hreset : reset := ⟨i, rest, hin, hrst⟩
    exact ⟨fun _ => .inl hreset, fun _ => .inl hreset⟩
  · exact ⟨fun hne => .inr (hhost hin (hostAccess_ibufByte hne)),
      fun hne => .inr (.inl (hhost hin (hostAccess_obufByte hne)))⟩
  · rcases engineTurn_cases hturn with ⟨-, rfl⟩ | ⟨hb, i, hd, hexec⟩ | ⟨-, rfl⟩
    · exact ⟨fun hne => absurd rfl hne, fun hne => absurd rfl hne⟩
    · refine ⟨fun hne => absurd (congrFun (exec_ibufByte hexec) a) hne, fun hne => ?_⟩
      obtain ⟨herr, hlo, hhi, hi⟩ := exec_obufByte (s := popInput s) hcfg hexec hne
      exact .inr (.inr ⟨hb, herr, hlo, hhi, i, hi, hd⟩)
    · exact ⟨fun hne => absurd rfl hne, fun hne => absurd rfl hne⟩

end Sys2Proof.Machine
end

section

namespace Sys2Proof.Machine

open Sys2Proof.Safety

/-! ### Tags (40_tag.md R107) -/

/-- Settles O26: a packed word gives back its bytes. -/
theorem tagEqualityIsByteWise : Obligations.TagEqualityIsByteWise := by
  intro b0 b1 b2 b3 c0 c1 c2 c3
  refine ⟨fun h => ?_, fun ⟨h0, h1, h2, h3⟩ => by rw [h0, h1, h2, h3]⟩
  have hbytes := congrArg bytesBe32 h
  simpa using hbytes

/-! ### CRC-32: one shift loses nothing (41_crc.md R112) -/

/-- The bit shifted out of the register: the polynomial sets bit 31, which the shift clears. -/
theorem crcBit_getLsbD_31 (c : Word) : (crcBit c).getLsbD 31 = c.getLsbD 0 := by
  unfold crcBit
  split
  · next h => simp [h]
  · next h => simpa using h

theorem crcBit_injective : Function.Injective crcBit := by
  intro c d h
  have h0 : c.getLsbD 0 = d.getLsbD 0 := by rw [← crcBit_getLsbD_31, h, crcBit_getLsbD_31]
  have hshift : c >>> 1 = d >>> 1 := by
    unfold crcBit at h
    rw [h0] at h
    split at h
    · exact (BitVec.xor_left_inj _).mp h
    · exact h
  refine BitVec.eq_of_getLsbD_eq fun i hi => ?_
  cases i with
  | zero => exact h0
  | succ i => simpa [Nat.add_comm] using congrArg (·.getLsbD i) hshift

theorem crcShift_injective (n : Nat) : Function.Injective (crcShift n) := by
  induction n with
  | zero => exact fun _ _ h => h
  | succ n ih => exact fun c d h => crcBit_injective (ih h)

/-- The register after a byte determines the register before it. -/
theorem crcByte_injective (b : Byte) : Function.Injective (crcByte · b) :=
  fun _ _ h => (BitVec.xor_left_inj _).mp (crcShift_injective 8 h)

/-- The register after a byte determines the byte. -/
theorem crcByte_injective_byte (c : Word) : Function.Injective (crcByte c) := by
  intro b d h
  have hwide : b.setWidth 32 = d.setWidth 32 := (BitVec.xor_right_inj _).mp (crcShift_injective 8 h)
  simpa using congrArg (BitVec.setWidth 8) hwide

theorem crcBytes_injective (bs : List Byte) : Function.Injective (crcBytes · bs) := by
  induction bs with
  | nil => exact fun _ _ h => h
  | cons b bs ih => exact fun c d h => crcByte_injective b (ih h)

/-- A change of one byte of a string changes its checksum. -/
theorem crc32_ne_of_byte_ne (front back : List Byte) {b c : Byte} (hne : b ≠ c) :
    crc32 (front ++ b :: back) ≠ crc32 (front ++ c :: back) := by
  intro h
  have hregister := (BitVec.xor_left_inj _).mp h
  rw [crcBytes_append, crcBytes_append] at hregister
  exact hne (crcByte_injective_byte _ (crcBytes_injective back hregister))

/-- Settles O31: the registers differ after the changed byte, and equal bytes keep them apart. -/
theorem crcDetectsOneByteChanges : Obligations.CrcDetectsOneByteChanges :=
  ⟨rfl, fun front back _ _ hne => crc32_ne_of_byte_ne front back hne⟩

/-! ### CRC-32 in its catalogue form (41_crc.md R111) -/

theorem reverse_xor {w : Nat} (x y : BitVec w) : (x ^^^ y).reverse = x.reverse ^^^ y.reverse := by
  refine BitVec.eq_of_getLsbD_eq fun i hi => ?_
  simp only [BitVec.getLsbD_reverse, BitVec.getLsbD_xor, BitVec.getMsbD_xor]

/-- Shifting towards the top is, read backwards, shifting towards the bottom. -/
theorem reverse_shiftLeft {w : Nat} (x : BitVec w) (n : Nat) : (x <<< n).reverse = x.reverse >>> n := by
  refine BitVec.eq_of_getLsbD_eq fun i hi => ?_
  simp [BitVec.getLsbD_reverse, BitVec.getMsbD_shiftLeft, Nat.add_comm]

/-- The two forms of the generator are each other's reverse. -/
theorem reverse_polynomial : (0x04C11DB7 : Word).reverse = 0xEDB88320 := by decide +kernel

/-- One shift of the reflected register is one step of the unreflected one, read backwards. -/
theorem reverse_msbBit (c : Word) : (msbBit c).reverse = crcBit c.reverse := by
  have hbit : c.reverse.getLsbD 0 = c.msb := BitVec.getLsbD_reverse
  rw [msbBit, crcBit, hbit]
  split
  · rw [reverse_xor, reverse_shiftLeft, reverse_polynomial]
  · rw [reverse_shiftLeft]

theorem reverse_msbShift (n : Nat) (c : Word) : (msbShift n c).reverse = crcShift n c.reverse := by
  induction n generalizing c with
  | zero => rfl
  | succ n ih => rw [msbShift, ih, reverse_msbBit, crcShift]

/-- `refin`: a byte that enters reversed at the top of the register is the byte entering at the bottom
of the reflected one. -/
theorem reverse_xor_byte (c : Word) (b : Byte) :
    (c ^^^ (b.reverse.setWidth 32 <<< 24)).reverse = c.reverse ^^^ b.setWidth 32 := by
  have hbyte : (b.reverse.setWidth 32 : Word).reverse >>> 24 = b.setWidth 32 := by
    refine BitVec.eq_of_getLsbD_eq fun i hi => ?_
    rw [BitVec.getLsbD_ushiftRight, BitVec.getLsbD_reverse, BitVec.getMsbD, BitVec.getLsbD_setWidth,
      BitVec.getLsbD_setWidth, BitVec.getLsbD_reverse, BitVec.getMsbD]
    by_cases h8 : i < 8
    · have hindex : 32 - 1 - (24 + i) = 7 - i ∧ 8 - 1 - (7 - i) = i := by omega
      simp [hindex, hi, show 24 + i < 32 ∧ 7 - i < 32 ∧ 7 - i < 8 by omega]
    · have hzero : b.getLsbD i = false := BitVec.getLsbD_of_ge _ _ (by omega)
      simp [hzero, show ¬ 24 + i < 32 by omega]
  rw [reverse_xor, reverse_shiftLeft, hbyte]

theorem reverse_msbBytes (c : Word) (bs : List Byte) : (msbBytes c bs).reverse = crcBytes c.reverse bs := by
  induction bs generalizing c with
  | nil => rfl
  | cons b bs ih => rw [msbBytes, ih, reverse_msbShift, reverse_xor_byte, crcBytes, crcByte]

/-- Settles O30: the two registers are each other's reverse, from the initial value, its own reverse,
on. -/
theorem crcMatchesCatalogueForm : Obligations.CrcMatchesCatalogueForm := by
  refine ⟨fun bs => ?_, by decide +kernel⟩
  have hinit : (0xFFFFFFFF : Word).reverse = 0xFFFFFFFF := by decide +kernel
  rw [crc32, catalogueCrc, reverse_msbBytes, hinit]

end Sys2Proof.Machine
end

section

namespace Sys2Proof.Machine

open Sys2Proof.Safety

/-! ### DECODE accepts exactly the right checksum (42_chunk.md R122, R125) -/

/-- Settles O36: the bytes parse, and DECODE leaves the parsed record's registers. -/
theorem decodeAcceptsValidRecord : Obligations.DecodeAcceptsValidRecord := by
  intro s f c L he hend hcrc
  have hparse := decodeAt_of_valid (f := f) (c := c) (e := s.iend.toNat) (by omega) hcrc.symm
  exact exec_decode_of_ok he (by omega) hparse

/-- A successful DECODE parsed a record at ICUR, inside IBUF, and moved ICUR to its end. -/
theorem exec_decode_success {u v : State} (h : exec .decode u = .next v) (herr : v.err = false) :
    ∃ r next, u.iend.toNat ≤ ibufSize u.cfg ∧
      decodeAt (ibufByte u) u.icur.toNat u.iend.toNat = .ok r next ∧ v.icur.toNat = next := by
  cases decodeCase u with
  | outside hout =>
    rw [exec_decode_of_outside hout] at h
    cases h
    cases herr
  | ok r next he hc hd =>
    rw [exec_decode_of_ok he hc hd] at h
    cases h
    obtain ⟨-, -, -, -, -, -, hnext, hfit⟩ := decodeAt_ok hd
    exact ⟨r, next, he, hd, w32_val (by omega)⟩
  | bad b he hc hd =>
    rw [exec_decode_of_bad he hc hd] at h
    cases h
    cases herr

section Changed

variable {f g : Nat → Byte} {a : Nat} (hne : g a ≠ f a) (hsame : ∀ b, b ≠ a → g b = f b)
include hsame

/-- Reads that do not reach the changed byte. -/
theorem memRead_eq_of_outside {c n : Nat} (hout : a < c ∨ c + n ≤ a) : memRead g c n = memRead f c n :=
  memRead_congr fun i hi => hsame (c + i) (by omega)

/-- A word that does not reach the changed byte. -/
theorem be32At_eq_of_outside {c : Nat} (hout : a < c ∨ c + 4 ≤ a) : be32At g c = be32At f c := by
  apply bytesBe32_injective
  rw [bytesBe32_be32At, bytesBe32_be32At, memRead_eq_of_outside hsame hout]

include hne

/-- The checksum of a string that holds the changed byte. -/
theorem crc32_memRead_ne {c n : Nat} (hlo : c ≤ a) (hhi : a < c + n) :
    crc32 (memRead g c n) ≠ crc32 (memRead f c n) := by
  obtain ⟨front, rfl⟩ := Nat.exists_eq_add_of_le hlo
  obtain ⟨back, rfl⟩ : ∃ back, n = front + (back + 1) := ⟨n - front - 1, by omega⟩
  have hsplit (m : Nat → Byte) : memRead m c (front + (back + 1)) =
      memRead m c front ++ m (c + front) :: memRead m (c + front + 1) back := by rw [memRead_add, memRead]
  rw [hsplit g, hsplit f, memRead_eq_of_outside hsame (by omega), memRead_eq_of_outside hsame (by omega)]
  exact crc32_ne_of_byte_ne _ _ hne

/-- A word that holds the changed byte. -/
theorem be32At_ne {c : Nat} (hlo : c ≤ a) (hhi : a < c + 4) : be32At g c ≠ be32At f c := by
  intro h
  have hbytes : memRead g c 4 = memRead f c 4 := by rw [← bytesBe32_be32At, h, bytesBe32_be32At]
  obtain ⟨i, rfl⟩ := Nat.exists_eq_add_of_le hlo
  have hbyte := congrArg (·[i]?) hbytes
  simp only [memRead_getElem? _ _ _ _ (show i < 4 by omega)] at hbyte
  exact hne (Option.some.inj hbyte)

/-- A record changed in one byte of its type, data or crc: its length stays, and just one of the
computed and the stored checksum changes. -/
theorem decodeAt_of_changed {c e next : Nat} {r : Record} (h : decodeAt f c e = .ok r next)
    (hlo : c + 4 ≤ a) (hhi : a < next) : decodeAt g c e = .bad (.mismatch (recordAt g c)) := by
  obtain ⟨hlen, -, -, hstored, hcomputed, hcrc, rfl, hfit⟩ := decodeAt_ok h
  rw [hstored, hcomputed] at hcrc
  have hleng : be32At g c = r.len := (be32At_eq_of_outside hsame (by omega)).trans hlen.symm
  rw [decodeAt_of_present (by rw [hleng]; exact hfit), if_pos]
  simp only [recordAt, hleng]
  by_cases hdata : a < c + 8 + r.len.toNat
  · rw [be32At_eq_of_outside hsame (by omega), ← hcrc]
    exact crc32_memRead_ne hne hsame hlo (by omega)
  · rw [memRead_eq_of_outside hsame (by omega), hcrc]
    exact (be32At_ne hne hsame (by omega) (by omega)).symm

end Changed

/-- Settles O38: a parsed record carries its checksum, and the changed one is a mismatch. -/
theorem decodeRejectsCorruption : Obligations.DecodeRejectsCorruption := by
  intro u v h herr
  obtain ⟨r, next, he, hd, hnext⟩ := exec_decode_success h herr
  obtain ⟨hlen, -, -, hstored, hcomputed, hcrc, hend, hfit⟩ := decodeAt_ok hd
  refine ⟨?_, fun x a hcfg hicur hiend hlo hhi hne hsame => ?_⟩
  · dsimp only
    rw [← hlen]
    exact ⟨hnext.trans hend, hstored.symm.trans (hcrc.symm.trans hcomputed)⟩
  · have hbad := decodeAt_of_changed hne hsame hd hlo (hnext ▸ hhi)
    rw [← hicur, ← hiend] at hbad
    have hfail := exec_decode_of_bad (s := x) (by rw [hcfg, hiend]; exact he)
      (by rw [hicur, hiend]; omega) hbad
    exact ⟨_, hfail, rfl, rfl, rfl⟩

/-! ### The bytes of a chunk parse back (42_chunk.md R124) -/

/-- The record the parser finds at `c` in the bytes of a chunk. -/
def chunkRecord (c : Nat) (tag : Word) (data : List Byte) : Record where
  len := BitVec.ofNat 32 data.length
  tag := tag
  stored := crc32 (bytesBe32 tag ++ data)
  computed := crc32 (bytesBe32 tag ++ data)
  poff := c + 8

@[simp] theorem chunkBytes_length (tag : Word) (data : List Byte) :
    (chunkBytes tag data).length = 12 + data.length := recordBytes_length _ _ _ _

/-- A string read in two parts. -/
theorem memRead_append_iff {f : Nat → Byte} {a : Nat} {xs ys : List Byte} :
    memRead f a (xs ++ ys).length = xs ++ ys ↔
      memRead f a xs.length = xs ∧ memRead f (a + xs.length) ys.length = ys := by
  rw [List.length_append, memRead_add]
  exact ⟨fun h => List.append_inj h (memRead_length _ _ _), fun ⟨hx, hy⟩ => by rw [hx, hy]⟩

/-- A word read from where its bytes stand. -/
theorem be32At_of_memRead {f : Nat → Byte} {a : Nat} {v : Word}
    (h : memRead f a (bytesBe32 v).length = bytesBe32 v) : be32At f a = v :=
  bytesBe32_injective ((bytesBe32_be32At f a).trans h)

section Chunk

variable {f : Nat → Byte} {c : Nat} {tag : Word} {data : List Byte}
  (h : memRead f c (chunkBytes tag data).length = chunkBytes tag data)
include h

/-- The four fields of a record, where its bytes stand. -/
theorem chunk_fields : be32At f c = BitVec.ofNat 32 data.length ∧ be32At f (c + 4) = tag ∧
    memRead f (c + 8) data.length = data ∧
    be32At f (c + 8 + data.length) = crc32 (bytesBe32 tag ++ data) := by
  obtain ⟨hfront, hcrc⟩ := memRead_append_iff.mp h
  obtain ⟨hhead, hdata⟩ := memRead_append_iff.mp hfront
  obtain ⟨hlen, htag⟩ := memRead_append_iff.mp hhead
  refine ⟨be32At_of_memRead hlen, be32At_of_memRead htag, hdata, ?_⟩
  have hoffset : (bytesBe32 (BitVec.ofNat 32 data.length) ++ bytesBe32 tag ++ data).length =
      8 + data.length := by simp; omega
  rw [hoffset, ← Nat.add_assoc] at hcrc
  exact be32At_of_memRead hcrc

/-- The bytes of a chunk, all present, parse to its record. -/
theorem decodeAt_of_chunk {e : Nat} (he : c + 12 + data.length ≤ e) (hlt : e < 2 ^ 32) :
    decodeAt f c e = .ok (chunkRecord c tag data) (c + 12 + data.length) := by
  obtain ⟨hlen, htag, hdata, hcrc⟩ := chunk_fields h
  have hnat : (be32At f c).toNat = data.length := by
    rw [hlen]
    exact w32_val (by omega)
  have htype : memRead f (c + 4) 4 = bytesBe32 tag := by rw [← bytesBe32_be32At, htag]
  have hvalid : crc32 (memRead f (c + 4) (4 + (be32At f c).toNat)) =
      be32At f (c + 8 + (be32At f c).toNat) := by
    rw [hnat, hcrc, memRead_add, htype, hdata]
  rw [decodeAt_of_valid (by omega) hvalid, hnat, hcrc, htag, hlen]
  rfl

end Chunk

/-- Settles O37: ENCODE succeeded, so the record is the chunk of TAG and the source string, and OBUF
holds its bytes at the old OCUR; read at `c` they parse. -/
theorem encodeDecodeRoundTrip : Obligations.EncodeDecodeRoundTrip := by
  intro s t u c h herr hcopy hicur hiend hin
  by_cases hout : s.src.toNat + s.slen.toNat > ibufSize s.cfg ∨
      s.ocur.toNat + 12 + s.slen.toNat > obufSize s.cfg
  · rw [exec_encode_of_outside hout] at h
    cases h
    cases herr
  rw [exec_encode_of_fits (by omega) (by omega)] at h
  cases h
  have hrecord : recordBytes s.slen s.tag (srcString s) (recordCrc s.tag (srcString s)) =
      chunkBytes s.tag (srcString s) := by
    rw [chunkBytes, srcString_length, BitVec.ofNat_toNat, BitVec.setWidth_eq]
    rfl
  have hlength := srcString_length s
  have hbytes : memRead (ibufByte u) c (chunkBytes s.tag (srcString s)).length =
      chunkBytes s.tag (srcString s) := by
    rw [memRead_eq_iff]
    intro i hi
    rw [chunkBytes_length, hlength] at hi
    rw [hcopy i hi, ← hrecord]
    exact obufHolds_putObuf s _ _ i (by rw [recordBytes_length, hlength]; exact hi)
  have hparse := decodeAt_of_chunk hbytes (e := u.iend.toNat) (by omega) u.iend.isLt
  rw [hlength] at hparse
  obtain ⟨-, -, hpayload, -⟩ := chunk_fields hbytes
  refine ⟨?_, rfl, fun i hi => ?_⟩
  · subst hicur
    rw [exec_decode_of_ok hin (by omega) hparse, ← hiend, w32_toNat, recordRegs, chunkRecord, hlength,
      BitVec.ofNat_toNat, BitVec.setWidth_eq]
    rfl
  · rw [← hlength] at hi
    have hbyte := (memRead_eq_iff _ _ _).mp hpayload i hi
    have hsource := memRead_getElem? (ibufByte s) s.src.toNat s.slen.toNat i (hlength ▸ hi)
    exact Option.some.inj (hbyte.symm.trans hsource)

end Sys2Proof.Machine
end

section

namespace Sys2Proof.Machine

open Sys2Proof.Safety

/-! ### The host's sequence appends to OBUF (43_container.md R134) -/

/-- `t` is `s` without error and with `bs` appended to OBUF at OCUR; IBUF and the parameters stay. -/
def Appends (bs : List Byte) (s t : State) : Prop :=
  t.err = false ∧ t.cfg = s.cfg ∧ t.ibuf = s.ibuf ∧ t.resets = s.resets ∧
    t.obuf = Memory.storeBytes s.obuf s.ocur.toNat bs ∧ t.ocur.toNat = s.ocur.toNat + bs.length

theorem Appends.nil {s : State} (h : s.err = false) : Appends [] s s := ⟨h, rfl, rfl, rfl, rfl, rfl⟩

/-- Appending twice appends the concatenation. -/
theorem Appends.trans {xs ys : List Byte} {s t u : State} (hst : Appends xs s t) (htu : Appends ys t u) :
    Appends (xs ++ ys) s u := by
  obtain ⟨-, hcfg, hibuf, hresets, hobuf, hocur⟩ := hst
  obtain ⟨herr, hcfg', hibuf', hresets', hobuf', hocur'⟩ := htu
  refine ⟨herr, hcfg'.trans hcfg, hibuf'.trans hibuf, hresets'.trans hresets, ?_, ?_⟩
  · rw [hobuf', hobuf, hocur, storeBytes_append]
  · rw [hocur', hocur, List.length_append, Nat.add_assoc]

/-- An appended string is all that OBUF changes by. -/
theorem Appends.obufByte_eq {bs : List Byte} {s t : State} (h : Appends bs s t) :
    obufByte t = obufByte (putObuf s.ocur.toNat bs s) := by
  obtain ⟨-, -, -, hresets, hobuf, -⟩ := h
  funext a
  simp only [obufByte, hobuf, hresets, putObuf_obuf, putObuf_resets]

/-- The payload a chunk selects does not change while OBUF is written. -/
theorem Appends.sourceOf_eq {bs : List Byte} {s t : State} (h : Appends bs s t) (ch : Word × Word × Word) :
    sourceOf t ch = sourceOf s ch := by
  obtain ⟨-, -, hibuf, hresets, -⟩ := h
  have hbytes : ibufByte t = ibufByte s := by
    funext a
    simp only [ibufByte, hibuf, hresets]
  simp only [sourceOf, hbytes]

theorem sourceOf_length (s : State) (ch : Word × Word × Word) :
    (sourceOf s ch).length = ch.2.2.toNat := memRead_length _ _ _

theorem sigemit_appends {s : State} (hcfg : s.cfg.wellFormed = true) (h : s.ocur.toNat + 8 ≤ obufSize s.cfg) :
    Appends signature s (nextOr s (exec .sigemit s)) := by
  have hsize := obufSize_lt hcfg
  rw [exec_sigemit_of_fits h]
  exact ⟨rfl, rfl, rfl, rfl, rfl, w32_val (by omega)⟩

/-- One chunk the host frames appends its record. -/
theorem hostEncode_appends {s : State} {ch : Word × Word × Word} (hcfg : s.cfg.wellFormed = true)
    (hsrc : ch.2.1.toNat + ch.2.2.toNat ≤ ibufSize s.cfg)
    (hout : s.ocur.toNat + (chunkBytes ch.1 (sourceOf s ch)).length ≤ obufSize s.cfg) :
    Appends (chunkBytes ch.1 (sourceOf s ch)) s (hostEncode ch s) := by
  obtain ⟨tag, src, slen⟩ := ch
  have hsize := obufSize_lt hcfg
  rw [chunkBytes_length, sourceOf_length] at hout
  have hrecord : chunkBytes tag (sourceOf s (tag, src, slen)) =
      recordBytes slen tag (sourceOf s (tag, src, slen))
        (recordCrc tag (sourceOf s (tag, src, slen))) := by
    rw [chunkBytes, sourceOf_length, BitVec.ofNat_toNat, BitVec.setWidth_eq]
    rfl
  have hnext := exec_encode_of_fits (s := { s with tag := tag, src := src, slen := slen }) hsrc
    (by rw [← Nat.add_assoc] at hout; exact hout)
  rw [hostEncode, hnext]
  refine ⟨rfl, rfl, rfl, rfl, ?_, ?_⟩
  · rw [hrecord]
    rfl
  · rw [chunkBytes_length, sourceOf_length, ← Nat.add_assoc]
    exact w32_val (by rw [← Nat.add_assoc] at hout; exact Nat.lt_of_le_of_lt hout hsize)

/-- The host's loop appends the records in order, as long as they fit. -/
theorem hostEncode_foldl_appends {s : State} (chunks : List (Word × Word × Word)) (herr : s.err = false)
    (hcfg : s.cfg.wellFormed = true)
    (hsrc : ∀ ch ∈ chunks, ch.2.1.toNat + ch.2.2.toNat ≤ ibufSize s.cfg)
    (hout : s.ocur.toNat + (chunks.flatMap fun ch => chunkBytes ch.1 (sourceOf s ch)).length ≤
      obufSize s.cfg) :
    Appends (chunks.flatMap fun ch => chunkBytes ch.1 (sourceOf s ch)) s
      (chunks.foldl (fun t ch => hostEncode ch t) s) := by
  induction chunks generalizing s with
  | nil => exact .nil herr
  | cons ch chunks ih =>
    rw [List.flatMap_cons, List.length_append] at hout
    have hfirst := hostEncode_appends hcfg (hsrc ch List.mem_cons_self) (by omega)
    have hsource := hfirst.sourceOf_eq
    obtain ⟨herr', hcfg', -, -, -, hocur⟩ := id hfirst
    have hrest := ih (s := hostEncode ch s) herr' (hcfg' ▸ hcfg)
      (fun x hx => hcfg' ▸ hsrc x (List.mem_cons_of_mem _ hx))
      (by simp only [hsource]; rw [hocur, hcfg']; omega)
    simp only [hsource] at hrest
    exact hfirst.trans hrest

/-- Settles O46: SIGEMIT appends the signature and the loop the records, so OBUF holds the container at
the old OCUR and is unchanged outside it. -/
theorem containerEncodingIsConcatenation : Obligations.ContainerEncodingIsConcatenation := by
  intro s chunks hcfg hsrc
  have hbytes : containerBytes (chunks.map fun ch => (ch.1, sourceOf s ch)) =
      signature ++ chunks.flatMap fun ch => chunkBytes ch.1 (sourceOf s ch) := by
    rw [containerBytes, List.flatMap_map]
    rfl
  intro bytes hout t
  change _ + (containerBytes _).length ≤ _ at hout
  rw [hbytes, List.length_append] at hout
  have hsig : signature.length = 8 := rfl
  have hfirst := sigemit_appends hcfg (by omega)
  have hsource := hfirst.sourceOf_eq
  obtain ⟨herr, hcfg', -, -, -, hocur⟩ := id hfirst
  have hloop := hostEncode_foldl_appends chunks herr (hcfg' ▸ hcfg) (fun ch h => hcfg' ▸ hsrc ch h)
    (by simp only [hsource]; rw [hocur, hcfg']; omega)
  simp only [hsource] at hloop
  have hall : Appends bytes s t := by
    change Appends (containerBytes _) s t
    rw [hbytes]
    exact hfirst.trans hloop
  have hobuf := hall.obufByte_eq
  obtain ⟨herr, -, hibuf, -, -, hocur⟩ := hall
  refine ⟨herr, hocur, fun i hi => ?_, hibuf, fun a ha => ?_⟩
  · rw [hobuf]
    exact obufHolds_putObuf s _ bytes i hi
  · rw [hobuf, obufByte_putObuf, if_neg (by omega)]

/-! ### A container validates to its chunks (43_container.md R136) -/

/-- The records the scan finds from `c` on in the bytes of chunks. -/
def chunkRecords : Nat → List (Word × List Byte) → List (Nat × Record)
  | _, [] => []
  | c, ch :: chunks => (c, chunkRecord c ch.1 ch.2) :: chunkRecords (c + 12 + ch.2.length) chunks

@[simp] theorem chunkRecords_length (c : Nat) (chunks : List (Word × List Byte)) :
    (chunkRecords c chunks).length = chunks.length := by
  induction chunks generalizing c with
  | nil => rfl
  | cons ch chunks ih => rw [chunkRecords, List.length_cons, List.length_cons, ih]

/-- The bytes of chunks, from `c` to the end of the input. -/
def ChunksAt (f : Nat → Byte) (c : Nat) (chunks : List (Word × List Byte)) : Prop :=
  memRead f c (chunks.flatMap fun ch => chunkBytes ch.1 ch.2).length =
    chunks.flatMap fun ch => chunkBytes ch.1 ch.2

theorem chunksAt_cons {f : Nat → Byte} {c : Nat} {ch : Word × List Byte} {chunks : List (Word × List Byte)} :
    ChunksAt f c (ch :: chunks) ↔
      memRead f c (chunkBytes ch.1 ch.2).length = chunkBytes ch.1 ch.2 ∧
        ChunksAt f (c + 12 + ch.2.length) chunks := by
  rw [ChunksAt, List.flatMap_cons, memRead_append_iff, ChunksAt, Nat.add_assoc c, ← chunkBytes_length ch.1]

/-- The records of chunks stand back to back. -/
theorem recordPath_of_chunks {f : Nat → Byte} {c e : Nat} {chunks : List (Word × List Byte)}
    (h : ChunksAt f c chunks)
    (he : c + (chunks.flatMap fun ch => chunkBytes ch.1 ch.2).length = e) (hlt : e < 2 ^ 32) :
    RecordPath f e c (chunkRecords c chunks) e := by
  induction chunks generalizing c with
  | nil => exact he
  | cons ch chunks ih =>
    obtain ⟨hfirst, hrest⟩ := chunksAt_cons.mp h
    rw [List.flatMap_cons, List.length_append, chunkBytes_length] at he
    exact ⟨rfl, _, decodeAt_of_chunk hfirst (by omega) hlt, ih hrest (by omega)⟩

/-- Record `i` is that of chunk `i`, whose payload stands 8 bytes past its offset. -/
theorem chunkRecords_getElem? {f : Nat → Byte} {c e i : Nat} {chunks : List (Word × List Byte)}
    {ch : Word × List Byte} (h : ChunksAt f c chunks)
    (he : c + (chunks.flatMap fun ch => chunkBytes ch.1 ch.2).length = e) (hi : chunks[i]? = some ch) :
    ∃ pos, (chunkRecords c chunks)[i]? = some (pos, chunkRecord pos ch.1 ch.2) ∧ pos < e ∧
      memRead f (pos + 8) ch.2.length = ch.2 := by
  induction chunks generalizing c i with
  | nil => cases hi
  | cons x chunks ih =>
    obtain ⟨hfirst, hrest⟩ := chunksAt_cons.mp h
    rw [List.flatMap_cons, List.length_append, chunkBytes_length] at he
    cases i with
    | zero =>
      cases hi
      obtain ⟨-, -, hpayload, -⟩ := chunk_fields hfirst
      exact ⟨c, rfl, by omega, hpayload⟩
    | succ i => exact ih hrest (by omega) hi

/-! ### Reading the descriptor table (30_encoding.md R88) -/

/-- Descriptor `i` of a table. -/
theorem memRead_descriptor {g : Nat → Byte} {o i : Nat} {recs : List (Nat × Record)} {p : Nat × Record}
    (h : memRead g o (recs.flatMap fun p => descriptor p.1 p.2).length =
      recs.flatMap fun p => descriptor p.1 p.2) (hi : recs[i]? = some p) :
    memRead g (o + 16 * i) (descriptor p.1 p.2).length = descriptor p.1 p.2 := by
  induction recs generalizing o i with
  | nil => cases hi
  | cons q recs ih =>
    rw [List.flatMap_cons, memRead_append_iff] at h
    cases i with
    | zero =>
      cases hi
      exact h.1
    | succ i =>
      have hrest := ih h.2 hi
      rwa [descriptor_length, show o + 16 + 16 * i = o + 16 * (i + 1) by omega] at hrest

/-- The four words of a descriptor, where its bytes stand. -/
theorem descriptor_fields {g : Nat → Byte} {d c : Nat} {r : Record}
    (h : memRead g d (descriptor c r).length = descriptor c r) :
    be32At g d = w32 c ∧ be32At g (d + 4) = r.len ∧ be32At g (d + 8) = r.tag ∧
      be32At g (d + 12) = r.stored := by
  obtain ⟨hfront, hstored⟩ := memRead_append_iff.mp h
  obtain ⟨hhead, htag⟩ := memRead_append_iff.mp hfront
  obtain ⟨hpos, hlen⟩ := memRead_append_iff.mp hhead
  exact ⟨be32At_of_memRead hpos, be32At_of_memRead hlen, be32At_of_memRead htag,
    be32At_of_memRead hstored⟩

/-- Settles O47: the container's bytes are the signature and a path of the chunks' records to IEND, so
VALIDATE writes their descriptors; the offsets fit a word because they lie below IEND. -/
theorem containerRoundTrip : Obligations.ContainerRoundTrip := by
  intro s chunks hholds hiend he hroom
  have hread := (ibufHolds_iff s _ _).mp hholds
  obtain ⟨hsig, hchunks⟩ := memRead_append_iff.mp hread
  have hlen : (containerBytes chunks).length =
      8 + (chunks.flatMap fun ch => chunkBytes ch.1 ch.2).length := List.length_append
  have hend : s.icur.toNat + 8 + (chunks.flatMap fun ch => chunkBytes ch.1 ch.2).length =
      s.iend.toNat := by omega
  have hpath := recordPath_of_chunks hchunks hend s.iend.isLt
  have hexec := exec_validate_of_path he (by omega) ((ibufHolds_iff s _ _).mpr hsig) hpath
    (by rw [chunkRecords_length]; exact hroom)
  refine ⟨_, hexec, rfl, by rw [chunkRecords_length]; rfl, rfl, fun i ch hi => ?_⟩
  intro d roff
  obtain ⟨pos, hrecord, hpos, hpayload⟩ := chunkRecords_getElem? hchunks hend hi
  have htable := (memRead_eq_iff _ _ _).mpr (obufHolds_putObuf s s.ocur.toNat
    ((chunkRecords (s.icur.toNat + 8) chunks).flatMap fun p => descriptor p.1 p.2))
  obtain ⟨hoffset, hlength, htag, hcrc⟩ := descriptor_fields (memRead_descriptor htable hrecord)
  have hroff : roff = pos :=
    (congrArg BitVec.toNat hoffset).trans (w32_val (hpos.trans s.iend.isLt))
  refine ⟨hlength, htag, hcrc, fun j hj => ?_⟩
  rw [hroff]
  exact (memRead_eq_iff _ _ _).mp hpayload j hj

end Sys2Proof.Machine
end

section

namespace Sys2Proof.Machine

open Sys2Proof.Safety

/-! ### The host's loop agrees with VALIDATE (43_container.md R137) -/

/-- The loop ends where CSTATE is not MORE. -/
theorem decodeWhileMore_of_stopped {s : State} (h : cstate s ≠ 0) (n : Nat) : decodeWhileMore n s = s := by
  cases n with
  | zero => rfl
  | succ n => exact if_neg h

/-- One turn of the loop. -/
theorem decodeWhileMore_of_more {s t : State} (h : cstate s = 0) (hexec : exec .decode s = .next t) (n : Nat) :
    decodeWhileMore (n + 1) s = decodeWhileMore n t := by
  rw [decodeWhileMore, if_pos h, hexec]
  rfl

theorem cstate_of_cerr {s : State} (h : s.cerr = true) : cstate s = 2 := (cursorStateValues.1 s).1 h

theorem cstate_of_more {s : State} (h : s.cerr = false) (hlt : s.icur.toNat < s.iend.toNat) : cstate s = 0 :=
  (cursorStateValues.1 s).2.2.1 h hlt

theorem cstate_of_exhausted {s : State} (h : s.cerr = false) (heq : s.icur.toNat = s.iend.toNat) :
    cstate s = 1 := (cursorStateValues.1 s).2.1 h heq

/-- `u` is the input state `s` without a cursor error, with ICUR at `c`. -/
def WalkAt (s : State) (c : Nat) (u : State) : Prop :=
  u.cerr = false ∧ u.icur.toNat = c ∧ u.iend = s.iend ∧ u.cfg = s.cfg ∧ ibufByte u = ibufByte s

/-- The loop walks along the records of a path, one turn each. -/
theorem walk_path {s : State} (he : s.iend.toNat ≤ ibufSize s.cfg) {recs : List (Nat × Record)}
    {c stop : Nat} (hc : c ≤ s.iend.toNat) (h : RecordPath (ibufByte s) s.iend.toNat c recs stop)
    {u : State} (hu : WalkAt s c u) (k : Nat) :
    ∃ w, WalkAt s stop w ∧ decodeWhileMore (recs.length + k) u = decodeWhileMore k w := by
  induction recs generalizing c u with
  | nil =>
    cases h
    exact ⟨u, hu, by rw [List.length_nil, Nat.zero_add]⟩
  | cons p recs ih =>
    obtain ⟨-, next, hd, hrest⟩ := h
    obtain ⟨hcerr, hicur, hiend, hcfg, hbytes⟩ := hu
    obtain ⟨-, -, -, -, -, -, hnext, hfit⟩ := decodeAt_ok hd
    have hlt := s.iend.isLt
    have hexec := exec_decode_of_ok (s := u) (by rw [hiend, hcfg]; exact he)
      (by rw [hicur, hiend]; exact hc) (by rw [hbytes, hicur, hiend]; exact hd)
    have hmore := cstate_of_more hcerr (by rw [hicur, hiend]; omega)
    obtain ⟨w, hw, hwalk⟩ := ih (by omega) hrest
      (u := succeeded { recordRegs p.2 u with icur := w32 next, cerr := false })
      ⟨rfl, w32_val (by omega), hiend, hcfg, hbytes⟩
    refine ⟨w, hw, ?_⟩
    rw [List.length_cons, Nat.add_right_comm, decodeWhileMore_of_more hmore hexec]
    exact hwalk

/-- What the claim says of the loop's end `u` beside VALIDATE's end `v`, from `s`. -/
def WalkAgrees (s v u : State) : Prop :=
  (cstate u = 1 ∨ cstate u = 2) ∧
  (v.err = false → cstate u = 1) ∧
  (cstate u = 1 → v.err = false ∨ (v.ecode = 8 ∧ v.errpos = s.icur)) ∧
  (cstate u = 2 → v.err = true ∧ v.ecode = u.ecode ∧ v.tfield = u.tfield ∧ v.errpos = u.errpos)

/-- An exhausted walk beside a success, or beside a table that does not fit. -/
theorem walkAgrees_of_exhausted {s v u : State} (hu : cstate u = 1)
    (hv : v.err = false ∨ (v.ecode = 8 ∧ v.errpos = s.icur)) : WalkAgrees s v u :=
  ⟨.inl hu, fun _ => hu, fun _ => hv, fun h2 => absurd (hu.symm.trans h2) (by decide)⟩

/-- A walk that ends in the failure VALIDATE reports. -/
theorem walkAgrees_of_error {s v u : State} (hu : u.cerr = true)
    (hv : v.err = true ∧ v.ecode = u.ecode ∧ v.tfield = u.tfield ∧ v.errpos = u.errpos) :
    WalkAgrees s v u := by
  have h2 := cstate_of_cerr hu
  exact ⟨.inr h2, fun hok => absurd (hv.1.symm.trans hok) (by decide),
    fun h1 => absurd (h1.symm.trans h2) (by decide), fun _ => hv⟩

/-- A failing SIGCHK ends the loop before it begins. -/
theorem walkAgrees_of_sigchk_fails {s v t : State} (hexec : exec .sigchk s = .next t) (ht : t.cerr = true)
    (hv : v.err = true ∧ v.ecode = t.ecode ∧ v.tfield = t.tfield ∧ v.errpos = t.errpos) (n : Nat) :
    WalkAgrees s v (decodeWhileMore n (nextOr s (exec .sigchk s))) := by
  have hstop : cstate t ≠ 0 := by rw [cstate_of_cerr ht]; decide
  rw [hexec, nextOr, decodeWhileMore_of_stopped hstop]
  exact walkAgrees_of_error ht hv

section Signed

variable {s v : State} {recs : List (Nat × Record)} {n : Nat} (he : s.iend.toNat ≤ ibufSize s.cfg)
  (hc : s.icur.toNat + 8 ≤ s.iend.toNat) (hsig : IbufHolds s s.icur.toNat signature)
include he hc hsig

/-- SIGCHK and the loop along a path that begins after the signature: a turn is left where the path
stops. -/
theorem walk_from_signature {stop : Nat}
    (hpath : RecordPath (ibufByte s) s.iend.toNat (s.icur.toNat + 8) recs stop) (hn : s.iend.toNat ≤ n) :
    ∃ w k, WalkAt s stop w ∧ decodeWhileMore n (nextOr s (exec .sigchk s)) = decodeWhileMore (k + 1) w := by
  have hle := recordPath_le hpath hc
  have hlt := s.iend.isLt
  obtain ⟨k, rfl⟩ : ∃ k, n = recs.length + (k + 1) := ⟨n - recs.length - 1, by omega⟩
  obtain ⟨w, hw, hwalk⟩ := walk_path he hc hpath
    (u := succeeded { s with icur := w32 (s.icur.toNat + 8), cerr := false })
    ⟨rfl, w32_val (by omega), rfl, rfl, rfl⟩ (k + 1)
  rw [exec_sigchk_of_holds he hc hsig]
  exact ⟨w, k, hw, hwalk⟩

/-- A path that stops at IEND: the walk is exhausted there. -/
theorem walkAgrees_of_whole
    (hpath : RecordPath (ibufByte s) s.iend.toNat (s.icur.toNat + 8) recs s.iend.toNat)
    (hn : s.iend.toNat ≤ n) (hv : v.err = false ∨ (v.ecode = 8 ∧ v.errpos = s.icur)) :
    WalkAgrees s v (decodeWhileMore n (nextOr s (exec .sigchk s))) := by
  obtain ⟨w, k, ⟨hcerr, hicur, hiend, -, -⟩, hwalk⟩ := walk_from_signature he hc hsig hpath hn
  have hexhausted := cstate_of_exhausted hcerr (by rw [hicur, hiend])
  rw [hwalk, decodeWhileMore_of_stopped (by rw [hexhausted]; decide)]
  exact walkAgrees_of_exhausted hexhausted hv

/-- A path that stops at a bad record: DECODE fails on it as VALIDATE does. -/
theorem walkAgrees_of_bad {pos : Nat} {b : BadRecord}
    (hpath : RecordPath (ibufByte s) s.iend.toNat (s.icur.toNat + 8) recs pos) (hn : s.iend.toNat ≤ n)
    (hne : pos ≠ s.iend.toNat) (hbad : decodeAt (ibufByte s) pos s.iend.toNat = .bad b) :
    WalkAgrees s (validateFail (badFailure b) (w32 pos) (diagnose b s))
      (decodeWhileMore n (nextOr s (exec .sigchk s))) := by
  have hle := recordPath_le hpath hc
  obtain ⟨w, k, ⟨hcerr, hicur, hiend, hcfg, hbytes⟩, hwalk⟩ := walk_from_signature he hc hsig hpath hn
  have hmore := cstate_of_more hcerr (by rw [hicur, hiend]; omega)
  have hfail := exec_decode_of_bad (s := w) (b := b) (by rw [hiend, hcfg]; exact he)
    (by rw [hicur, hiend]; omega) (by rw [hicur, hiend, hbytes]; exact hbad)
  rw [hwalk, decodeWhileMore_of_more hmore hfail,
    decodeWhileMore_of_stopped (by rw [cstate_of_cerr rfl]; decide)]
  have hpos : w32 pos = w.icur := by rw [← hicur, w32_toNat]
  exact walkAgrees_of_error rfl ⟨validateFail_err _ _ _, rfl, by cases b <;> rfl, hpos⟩

end Signed

/-- Settles O48: SIGCHK fails as VALIDATE's first checks do; past the signature the loop walks along the
records VALIDATE scans, to IEND or to the bad record, on which DECODE fails as VALIDATE does. -/
theorem stepwiseWalkAgreesWithValidate : Obligations.StepwiseWalkAgreesWithValidate := by
  intro s v n hn hv
  change WalkAgrees s v (decodeWhileMore n (nextOr s (exec .sigchk s)))
  cases containerCase s with
  | outside hout =>
    rw [exec_validate_of_outside hout] at hv
    cases hv
    exact walkAgrees_of_sigchk_fails (exec_sigchk_of_outside hout) rfl ⟨rfl, rfl, rfl, rfl⟩ n
  | missing he hc hmiss =>
    rw [exec_validate_of_missing he hc hmiss] at hv
    cases hv
    exact walkAgrees_of_sigchk_fails (exec_sigchk_of_missing he hc hmiss) rfl ⟨rfl, rfl, rfl, rfl⟩ n
  | bad recs pos b he hc hsig hpath hne hbad =>
    rw [exec_validate_of_bad he hc hsig hpath hne hbad] at hv
    cases hv
    exact walkAgrees_of_bad he hc hsig hpath hn hne hbad
  | full recs he hc hsig hpath hfull =>
    rw [exec_validate_of_full he hc hsig hpath hfull] at hv
    cases hv
    exact walkAgrees_of_whole he hc hsig hpath hn (.inr ⟨rfl, rfl⟩)
  | valid recs he hc hsig hpath hfit =>
    rw [exec_validate_of_path he hc hsig hpath hfit] at hv
    cases hv
    exact walkAgrees_of_whole he hc hsig hpath hn (.inl rfl)

end Sys2Proof.Machine
end
